-- ==== Sys2Proof/Word.lean ====
section
/-! DEFINITION. The engine's register widths and the two line levels (spec 00_scope.md R6, R8; 10_state.md R10;
20_memory.md R41). Bit 0 is the least significant bit everywhere (00_scope.md R8). -/

namespace Sys2Proof

/-- A host register: 32 bits (00_scope.md R6). -/
abbrev Word := BitVec 32

/-- A byte of the frame (10_state.md R16). -/
abbrev Byte := BitVec 8

/-- `CNT` and `LOWCNT`: 10 bits (10_state.md R17, R18). -/
abbrev Count := BitVec 10

/-- `BITIDX`: 6 bits (10_state.md R15). -/
abbrev BitIndex := BitVec 6

/-- `HUM` and `TEMP`: 16 bits, in tenths (10_state.md R21, R22). -/
abbrev Tenths := BitVec 16

/-- `FRAME[0..4]`: five bytes (10_state.md R16). -/
abbrev Frame := Vector Byte 5

/-- What the register `LFINFO` can hold: 32 bits (10_state.md R20, R29). A value of the open type `E` is held as its register
image; which words are such images is `Config.errorImage`'s to say, and possibly none is. DEDUCED, log entry 1. -/
abbrev ErrImage := BitVec 32

/-- The two levels of the line (20_memory.md R41). -/
inductive Level where
  | low
  | high
  deriving DecidableEq, Repr, Inhabited

/-- The level that is not `l`. -/
def Level.other : Level → Level
  | .low => .high
  | .high => .low

end Sys2Proof
end

