-- ==== Sys2Proof/Syntax.lean ====
section
/-! DEFINITION. The operations of the engine, one constructor per row of spec/opcode_table.json
(30_encoding.md R71): four host commands and twelve micro-operations. -/

namespace Sys2Proof

/-- The complete list of operations (30_encoding.md R71). -/
inductive Instr where
  /-- Host command `NOP` (40_host_commands.md R84). -/
  | nop
  /-- Host command `CONSTRUCT` (R81). -/
  | construct
  /-- Host command `MEASURE` (R83). -/
  | measure
  /-- Host command `RELEASE` (R82). -/
  | release
  /-- `SET_RELEASE` (45_line_and_delay_primitives.md R131). -/
  | setRelease
  /-- `SET_LOW` (R130). -/
  | setLow
  /-- `READ_LINE` (R132). -/
  | readLine
  /-- `DELAY_US n` (R133). -/
  | delayUs (n : Nat)
  /-- `DELAY_MS n` (R134). -/
  | delayMs (n : Nat)
  /-- `WAIT_PULSE level` (42_pulse_bit_decoder.md R100). -/
  | waitPulse (level : Level)
  /-- `READ_BIT` (R103). -/
  | readBit
  /-- `HANDSHAKE` (41_handshake.md R90). -/
  | handshake
  /-- `BIT_LOOP` (42_pulse_bit_decoder.md R105). -/
  | bitLoop
  /-- `TRAIL` (R107). -/
  | trail
  /-- `CRC_CHECK` (43_crc8_validator.md R115). -/
  | crcCheck
  /-- `EXTRACT` (44_field_extractor.md R120). -/
  | extract
  deriving DecidableEq, Repr

/-- The mnemonic of an operation as spec/opcode_table.json spells it. -/
def Instr.mnemonic : Instr → String
  | .nop => "NOP"
  | .construct => "CONSTRUCT"
  | .measure => "MEASURE"
  | .release => "RELEASE"
  | .setRelease => "SET_RELEASE"
  | .setLow => "SET_LOW"
  | .readLine => "READ_LINE"
  | .delayUs _ => "DELAY_US"
  | .delayMs _ => "DELAY_MS"
  | .waitPulse _ => "WAIT_PULSE"
  | .readBit => "READ_BIT"
  | .handshake => "HANDSHAKE"
  | .bitLoop => "BIT_LOOP"
  | .trail => "TRAIL"
  | .crcCheck => "CRC_CHECK"
  | .extract => "EXTRACT"

end Sys2Proof
end

