-- ==== Sys2Proof/WellFormed.lean ====
section
/-! DEFINITION. Which operations are well formed: the operand of a delay is a 6-bit unsigned count
(30_encoding.md R71, R76). Every other operation is well formed as it stands. -/

namespace Sys2Proof

/-- The delay count fits the 6 bits of the delay port (30_encoding.md R76). -/
def delayCountFits (n : Nat) : Bool := decide (n < 64)

/-- Well-formedness of an operation (30_encoding.md R71). -/
def Instr.wf : Instr → Bool
  | .nop => true
  | .construct => true
  | .measure => true
  | .release => true
  | .setRelease => true
  | .setLow => true
  | .readLine => true
  | .delayUs n => delayCountFits n
  | .delayMs n => delayCountFits n
  | .waitPulse _ => true
  | .readBit => true
  | .handshake => true
  | .bitLoop => true
  | .trail => true
  | .crcCheck => true
  | .extract => true

end Sys2Proof
end

