-- ==== Sys2Proof/Decode.lean ====
section
/-! DEFINITION. The code words of 30_encoding.md R65 and R71 and spec/opcode_table.json: decoder, encoder and the table
itself. A host command is the 32-bit value written to `CTRL`, of which only bits [1:0] are decoded; a
micro-operation's nominal pattern is its 4-bit number followed by its operand bits, most significant bit first. -/

namespace Sys2Proof

/-- A code word: how many bits it has, and those bits read as a number, bit 0 least significant. -/
structure CodeWord where
  width : Nat
  bits : Nat
  deriving DecidableEq, Repr

/-- Why a code word is no operation. -/
inductive DecodeError where
  /-- No format of R60 has this width. -/
  | noSuchWidth
  /-- The number does not fit the stated width. -/
  | tooWide
  /-- A micro-operation number that names no operation (12..15 of R71). -/
  | reservedNumber
  /-- The number names an operation whose operand bits are missing from the word (R71). -/
  | operandMissing
  /-- The number names no operation with this many operand bits (R71). -/
  | operandUnexpected
  deriving DecidableEq, Repr

/-- The host command that a write of `v` to `CTRL` presents: `CMD = v[1:0]` (10_state.md R26, 30_encoding.md R65). -/
def commandOf (v : Word) : Instr :=
  match v.toNat % 4 with
  | 0 => .nop
  | 1 => .construct
  | 2 => .measure
  | _ => .release

/-- A micro-operation without operand, by its 4-bit number (30_encoding.md R71). -/
def decodeUop : Nat → Except DecodeError Instr
  | 0 => .ok .setRelease
  | 1 => .ok .setLow
  | 2 => .ok .readLine
  | 3 => .error .operandMissing
  | 4 => .error .operandMissing
  | 5 => .error .operandMissing
  | 6 => .ok .readBit
  | 7 => .ok .handshake
  | 8 => .ok .bitLoop
  | 9 => .ok .trail
  | 10 => .ok .crcCheck
  | 11 => .ok .extract
  | _ => .error .reservedNumber

/-- A micro-operation with a level bit, `0101l` (30_encoding.md R71). -/
def decodeUopLevel (v : Nat) : Except DecodeError Instr :=
  if v / 2 = 5 then .ok (.waitPulse (if v % 2 = 1 then .high else .low))
  else .error .operandUnexpected

/-- A micro-operation with a 6-bit count, `0011nnnnnn` or `0100nnnnnn` (30_encoding.md R71). -/
def decodeUopDelay (v : Nat) : Except DecodeError Instr :=
  if v / 64 = 3 then .ok (.delayUs (v % 64))
  else if v / 64 = 4 then .ok (.delayMs (v % 64))
  else .error .operandUnexpected

/-- The decoder, total on every code word (30_encoding.md R65, R68, R71). -/
def decode (c : CodeWord) : Except DecodeError Instr :=
  if 2 ^ c.width ≤ c.bits then .error .tooWide
  else
    match c.width with
    | 4 => decodeUop c.bits
    | 5 => decodeUopLevel c.bits
    | 10 => decodeUopDelay c.bits
    | 32 => .ok (commandOf (BitVec.ofNat 32 c.bits))
    | _ => .error .noSuchWidth

/-- The encoder (30_encoding.md R65, R71); a host command's ignored bits are written 0 (R72). -/
def encode : Instr → CodeWord
  | .nop => ⟨32, 0⟩
  | .construct => ⟨32, 1⟩
  | .measure => ⟨32, 2⟩
  | .release => ⟨32, 3⟩
  | .setRelease => ⟨4, 0⟩
  | .setLow => ⟨4, 1⟩
  | .readLine => ⟨4, 2⟩
  | .delayUs n => ⟨10, 3 * 64 + n⟩
  | .delayMs n => ⟨10, 4 * 64 + n⟩
  | .waitPulse .low => ⟨5, 5 * 2⟩
  | .waitPulse .high => ⟨5, 5 * 2 + 1⟩
  | .readBit => ⟨4, 6⟩
  | .handshake => ⟨4, 7⟩
  | .bitLoop => ⟨4, 8⟩
  | .trail => ⟨4, 9⟩
  | .crcCheck => ⟨4, 10⟩
  | .extract => ⟨4, 11⟩

/-- One row of spec/opcode_table.json. -/
structure OpcodeRow where
  mnemonic : String
  width : Nat
  mask : Nat
  pattern : Nat
  deriving DecidableEq, Repr

/-- spec/opcode_table.json, row for row. -/
def opcodeTable : List OpcodeRow := [
  ⟨"NOP", 32, 0x3, 0x0⟩, ⟨"CONSTRUCT", 32, 0x3, 0x1⟩, ⟨"MEASURE", 32, 0x3, 0x2⟩, ⟨"RELEASE", 32, 0x3, 0x3⟩,
  ⟨"SET_RELEASE", 4, 0xF, 0x0⟩, ⟨"SET_LOW", 4, 0xF, 0x1⟩, ⟨"READ_LINE", 4, 0xF, 0x2⟩,
  ⟨"DELAY_US", 10, 0x3C0, 0x0C0⟩, ⟨"DELAY_MS", 10, 0x3C0, 0x100⟩, ⟨"WAIT_PULSE", 5, 0x1E, 0x0A⟩,
  ⟨"READ_BIT", 4, 0xF, 0x6⟩, ⟨"HANDSHAKE", 4, 0xF, 0x7⟩, ⟨"BIT_LOOP", 4, 0xF, 0x8⟩, ⟨"TRAIL", 4, 0xF, 0x9⟩,
  ⟨"CRC_CHECK", 4, 0xF, 0xA⟩, ⟨"EXTRACT", 4, 0xF, 0xB⟩]

/-- A code word of the row's width whose fixed bits are the row's. -/
def OpcodeRow.matches (r : OpcodeRow) (c : CodeWord) : Bool :=
  c.width == r.width && (c.bits &&& r.mask) == r.pattern

/-- The operation that the decoder reads from a code word, or none. -/
def decode? (c : CodeWord) : Option Instr :=
  match decode c with
  | .ok i => some i
  | .error _ => none

/-- The operation read from `nbits` bits `w`, `nbits` being a row's width or that width rounded up to whole bytes.
In 8 bits a word below 16 is read as a 4-bit number first and as `0101l` only if that names nothing: the two formats
share the words 0x0A and 0x0B there. DESIGN CHOICE, log entry 12. -/
def decodeTableWord (nbits w : Nat) : Option Instr :=
  match nbits with
  | 8 =>
    match decode? ⟨4, w⟩ with
    | some i => some i
    | none => decode? ⟨5, w⟩
  | 16 => decode? ⟨10, w⟩
  | n => decode? ⟨n, w⟩

end Sys2Proof
end

