-- ==== Sys2Proof/Config.lean ====
section
/-! DEFINITION. What is fixed for the machine: the constants of 00_scope.md R5, the open parameters of R6, and the
free values of the environment (20_memory.md R54). An opaque constant has no value a proof could lean on. -/

namespace Sys2Proof.Config

/-- `NBITS`: bits in one frame (00_scope.md R5). -/
abbrev nBits : Nat := 40

/-- `NBYTES`: bytes in one frame (00_scope.md R5). -/
abbrev nBytes : Nat := 5

/-- `T_SETTLE_MS`: settle wait after the first release, in milliseconds (00_scope.md R5). -/
abbrev tSettleMs : Nat := 1

/-- `T_START_MS`: the start pulse, in milliseconds (00_scope.md R5). -/
abbrev tStartMs : Nat := 20

/-- `T_RELEASE_US`: wait after the second release, in microseconds (00_scope.md R5). -/
abbrev tReleaseUs : Nat := 40

/-- `T_POLL_US`: delay between two samples of a pulse-wait, in microseconds (00_scope.md R5). -/
abbrev tPollUs : Nat := 1

/-- `TIMEOUT_COUNT`: a pulse-wait fails when its counter exceeds this (00_scope.md R5). -/
abbrev timeoutCount : Nat := 1000

/-- `E_WIDTH`, 0..32: the width of the register image of an error value (00_scope.md R6). Open. -/
opaque eWidth : Fin 33

/-- `BASE` divided by four: the host register block starts at a 32-bit aligned address (00_scope.md R6,
92_eei_decisions.md "Open parameters"). Open. DESIGN CHOICE, log entry 22: the spec gives the bus address no width; here it
has 32 bits. -/
opaque baseWord : BitVec 30

/-- `BASE`, the address of the host register block (00_scope.md R6). That a bus address has 32 bits is the model's DESIGN
CHOICE, log entry 22. -/
def base : Word := baseWord ++ 0#2

/-- Which images are the image of a value of the open type `E` (00_scope.md R6, 10_state.md R29). Open: it may be any set of
`E_WIDTH`-bit images, and is empty where `E` is, that is for a line that cannot fail. Log entry 1. -/
opaque isErrorImage (v : BitVec eWidth.val) : Bool

/-- `E`, the type of a line-capability error (00_scope.md R6, 92_eei_decisions.md D18), each value known by its image of
`E_WIDTH` bits. A parameter of the model: it may be empty. DEDUCED, log entry 1. -/
abbrev ErrorValue := { v : BitVec eWidth.val // isErrorImage v = true }

/-- The register image of a value of `E`, the bits above `E_WIDTH` being 0 (10_state.md R29). -/
def errorImage (e : ErrorValue) : ErrImage := e.val.setWidth 32

/-- The fault, if any, of the `n`-th free answer of the environment (20_memory.md R54); never one where `E` is empty.
FREE VALUE, log entry 4. -/
opaque freeFault (n : Nat) : Option ErrorValue

/-- The level of the `n`-th free answer of the environment (20_memory.md R54). FREE VALUE, log entry 4. -/
opaque freeLevel (n : Nat) : Level

end Sys2Proof.Config
end

