-- ==== Sys2Proof/Machine/State.lean ====
section
/-! DEFINITION. The state: the engine's registers (10_state.md R10), the environment behind the line port
(20_memory.md R54), the outstanding requests (R49), the turns to come (R52), the event trace (00_scope.md R8)
and what came back to the host. Plain data throughout. Which fields are the spec's and which are the model's own: INVENTORY.md, "State". -/

namespace Sys2Proof.Machine

/-- `PH`, the phase (10_state.md R12, 30_encoding.md R67). -/
inductive Phase where
  | idle
  | handshaking
  | bitreading
  | trailing
  | checksum
  | done
  | failed
  deriving DecidableEq, Repr

/-- `UPC`, the sequencer position (10_state.md R13). Codes 12..15 never occur (30_encoding.md R68). -/
inductive Upc where
  | u0
  | u1
  | u2
  | u3
  | u4
  | u5
  | u6
  | u7
  | u8
  | u9
  | u10
  | u11
  deriving DecidableEq, Repr

/-- `RBP`: which of the two pulse-waits of a bit read is running (10_state.md R14). -/
inductive BitPart where
  | lowph
  | highph
  deriving DecidableEq, Repr

/-- `WPS`: what the next micro-step of the running pulse-wait is (10_state.md R14). -/
inductive PollPart where
  | sample
  | delay
  deriving DecidableEq, Repr

/-- `ERRCODE` (10_state.md R19, 30_encoding.md R66). -/
inductive ErrCode where
  | none
  | timeout
  | crc
  | linefault
  deriving DecidableEq, Repr

/-- The closed error set (60_exceptions.md R140). -/
inductive Err where
  | timeout
  | crcMismatch
  | lineFault (e : ErrImage)
  deriving DecidableEq, Repr

/-- A request on the line port (30_encoding.md R75). -/
inductive LineReq where
  | rel
  | low
  | rd
  deriving DecidableEq, Repr

/-- An answer to `REL` or `LOW` (30_encoding.md R75): no level can be answered there (93 I12). -/
inductive DriveAns where
  | ok
  | err (e : ErrImage)
  deriving DecidableEq, Repr

/-- An answer to `RD` (30_encoding.md R75): a plain `ok` cannot be answered there (93 I12). -/
inductive ReadAns where
  | level (l : Level)
  | err (e : ErrImage)
  deriving DecidableEq, Repr

/-- The unit of a delay request (30_encoding.md R76). -/
inductive DelayUnit where
  | us
  | ms
  deriving DecidableEq, Repr

/-- A request on the delay port (30_encoding.md R76). -/
structure DelayReq where
  unit : DelayUnit
  count : Nat
  deriving DecidableEq, Repr

/-- A request of the engine on either port (30_encoding.md R75, R76). -/
inductive PortReq where
  | line (r : LineReq)
  | delay (d : DelayReq)
  deriving DecidableEq, Repr

/-- An event: a request of the engine on a capability port with its answer (00_scope.md R8). A delay is always
answered `done` (45_line_and_delay_primitives.md R133), so its event carries no answer. -/
inductive Event where
  | rel (a : DriveAns)
  | low (a : DriveAns)
  | rd (a : ReadAns)
  | dus (n : Nat)
  | dms (n : Nat)
  deriving DecidableEq, Repr

/-- The environment's shadow of the line driver (20_memory.md R54). No engine rule reads it. -/
inductive LineDriver where
  | released
  | drivenLow
  | unknown
  deriving DecidableEq, Repr

/-- What the host does in a turn of its own (40_host_commands.md R80, 70_reset_and_hazards.md R160).
`bytes` is the width of the access; only 4 is defined (20_memory.md R45). -/
inductive HostAct where
  /-- A read at a byte offset from `BASE`. -/
  | read (bytes off : Nat)
  /-- A write at a byte offset from `BASE`. -/
  | write (bytes off : Nat) (v : Word)
  /-- Assert and release reset (30_encoding.md R72, 70 R160). -/
  | reset
  /-- The host's own use of the line capability (allowed while `BOUND = 0`). -/
  | line (r : LineReq)
  /-- The host's own use of the delay capability (allowed while `BUSY = 0`). -/
  | delay (d : DelayReq)
  deriving DecidableEq, Repr

/-- What a turn of the host brought back to it. -/
inductive HostReturn where
  /-- The 32 bits of `HostRead(off)`. -/
  | data (off : Nat) (v : Word)
  /-- The answer to the host's own `REL` or `LOW`. -/
  | drive (r : LineReq) (a : DriveAns)
  /-- The answer to the host's own `RD`. -/
  | level (a : ReadAns)
  /-- The host's own delay has elapsed. -/
  | elapsed (d : DelayReq)
  deriving DecidableEq, Repr

/-- Whose turn it is (20_memory.md R52; log entry 8). -/
inductive Turn where
  /-- One step of the host. -/
  | host (a : HostAct)
  /-- One micro-step of the engine (10_state.md R13). -/
  | engine
  /-- The engine issues the request of its next micro-step and holds it (30_encoding.md R75); the micro-step itself, with
  the answer, is an engine turn to come, and steps of the host may fall before it. Log entry 6. -/
  | request
  /-- The `n`-th abandoned request, counted from 0 and oldest first, is answered after all (70_reset_and_hazards.md R161;
  log entry 6). -/
  | lateAnswer (n : Nat)
  /-- `RUN`: micro-steps until the engine has none (30_encoding.md R72). -/
  | run
  /-- One operation performed whole, by name. The hardware has no such turn: it exists so that an operation
  given as a code word can be run (`State.withFetchWord`). Log entry 9. -/
  | issue (i : Instr)
  deriving DecidableEq, Repr

/-- The engine's registers: the complete list of 10_state.md R10. -/
structure Engine where
  bound : Bool
  ph : Phase
  upc : Upc
  rbp : BitPart
  wps : PollPart
  bitidx : BitIndex
  frame : Frame
  cnt : Count
  lowcnt : Count
  errcode : ErrCode
  lfinfo : Option ErrImage
  hum : Tenths
  temp : Tenths
  cmdref : Bool
  deriving DecidableEq, Repr

/-- The environment behind the line port (20_memory.md R54). A request takes the next listed answer of its kind;
when none is listed, a read answers `rest` if there is one, and anything else is a free value (log entry 4). -/
structure Environment where
  drives : List DriveAns
  reads : List ReadAns
  rest : Option Level
  draws : Nat
  ldrv : LineDriver
  deriving DecidableEq, Repr

structure State where
  eng : Engine
  env : Environment
  /-- The request the engine has issued and holds until its answer arrives, if one is outstanding: never more than one
  (20_memory.md R49, 30_encoding.md R75). -/
  held : Option PortReq
  /-- The requests that a reset abandoned and that no answer has come to, oldest first (70_reset_and_hazards.md R161). -/
  abandoned : List PortReq
  turns : List Turn
  /-- The event trace, newest first (00_scope.md R8). -/
  events : List Event
  /-- What came back to the host, newest first. -/
  returned : List HostReturn
  deriving DecidableEq, Repr

/-- No fault stops this machine: the three errors of 60_exceptions.md R140 are aborts to a next state (R147), and
the spec leaves no behaviour of the engine undefined (00_scope.md section 6, item 5). -/
inductive Fault where
  deriving DecidableEq, Repr

/-- Why a step has no meaning. -/
inductive Refusal where
  /-- Raised by `exec`'s refused arms only: an instruction that has no meaning yet. Safe. No arm is refused today. -/
  | notModelled (mnemonic : String)
  /-- Raised by a host access that the register map does not define: "a model refuses it" (20_memory.md R45). Safe. -/
  | hostAccess
  /-- Raised when the host uses the line capability while `BOUND = 1`: "the spec says nothing about the result"
  (20_memory.md R53, 93 I13). Safe. -/
  | lineNotFree
  /-- Raised when the host uses the delay capability while `BUSY = 1` (20_memory.md R53, 93 I13). Safe. -/
  | delayNotFree
  deriving DecidableEq, Repr

/-- Every register at its reset value (10_state.md R35). -/
def Engine.reset : Engine where
  bound := false
  ph := .idle
  upc := .u0
  rbp := .lowph
  wps := .sample
  bitidx := 0
  frame := Vector.replicate 5 0
  cnt := 0
  lowcnt := 0
  errcode := .none
  lfinfo := none
  hum := 0
  temp := 0
  cmdref := false

/-- The environment at power-up: `LDRV` is UNKNOWN (20_memory.md R54) and no answer is listed (log entry 4). -/
def Environment.powerUp : Environment where
  drives := []
  reads := []
  rest := none
  draws := 0
  ldrv := .unknown

/-- The machine right after power-up and reset (10_state.md R35, 70_reset_and_hazards.md R160): nothing has
happened and no turn is listed (log entry 10). -/
def State.reset : State where
  eng := Engine.reset
  env := Environment.powerUp
  held := none
  abandoned := []
  turns := []
  events := []
  returned := []

end Sys2Proof.Machine
end

