-- ==== Sys2Proof/Machine/Flags.lean ====
section
/-! DEFINITION. The status flags and the modes, all functions of `BOUND` and `PH` (10_state.md R24,
60_exceptions.md R150), and which commands each mode accepts (40_host_commands.md R80). -/

namespace Sys2Proof.Machine

/-- `BUSY` (10_state.md R24). -/
def Engine.busy (e : Engine) : Bool :=
  match e.ph with
  | .idle => false
  | .handshaking => true
  | .bitreading => true
  | .trailing => true
  | .checksum => true
  | .done => false
  | .failed => false

/-- `DONE` (10_state.md R24). -/
def Engine.doneFlag (e : Engine) : Bool := decide (e.ph = .done)

/-- `FAIL` (10_state.md R24). -/
def Engine.failFlag (e : Engine) : Bool := decide (e.ph = .failed)

/-- The three modes (60_exceptions.md R150). -/
inductive Mode where
  | unbound
  | ready
  | busy
  deriving DecidableEq, Repr

/-- The mode of the engine (60_exceptions.md R150). -/
def Engine.mode (e : Engine) : Mode :=
  if e.bound then (if e.busy then .busy else .ready) else .unbound

/-- `CONSTRUCT` is accepted when `BOUND = 0` (40_host_commands.md R80). -/
def Engine.acceptsConstruct (e : Engine) : Bool := !e.bound

/-- `MEASURE` is accepted when `BOUND = 1` and `BUSY = 0` (40_host_commands.md R80). -/
def Engine.acceptsMeasure (e : Engine) : Bool := e.bound && !e.busy

/-- `RELEASE` is accepted when `BOUND = 1` and `BUSY = 0` (40_host_commands.md R80). -/
def Engine.acceptsRelease (e : Engine) : Bool := e.bound && !e.busy

/-- The positions that poll: `RBP` and `WPS` are meaningful only there (10_state.md R14). -/
def Engine.polling (e : Engine) : Bool :=
  match e.upc with
  | .u7 => true
  | .u8 => true
  | .u9 => true
  | .u0 | .u1 | .u2 | .u3 | .u4 | .u5 | .u6 | .u10 | .u11 => false

/-- The target level of the running pulse-wait (10_state.md R14, 42_pulse_bit_decoder.md R103). -/
def Engine.target (e : Engine) : Level :=
  match e.rbp with
  | .lowph => .high
  | .highph => .low

end Sys2Proof.Machine
end

