-- ==== Sys2Proof/Machine/Operands.lean ====
section
/-! DEFINITION. How operands and register images are put together: frame bits (42_pulse_bit_decoder.md R104, R106), the
checksum (43 R115), the two fields (44 R121, R122), the codes of 30_encoding.md R65 to R67, R75, R76, and the six host
registers (10_state.md R25 to R31). -/

namespace Sys2Proof.Machine

/-- `v` with bit `k` replaced by `b`. -/
def setBit (v : Byte) (k : Nat) (b : Bool) : Byte :=
  if b then v ||| (1#8 <<< k) else v &&& ~~~(1#8 <<< k)

/-- Storing the bit of iteration `i`: bit `7 - (i mod 8)` of `FRAME[i div 8]` (42_pulse_bit_decoder.md R106). An index
of 40 or more has no place in the frame and stores nothing; no reachable state has one (log entry 20). -/
def storeBit (f : Frame) (i : Nat) (b : Bool) : Frame :=
  if h : i / 8 < 5 then f.set (i / 8) (setBit f[i / 8] (7 - i % 8) b) else f

/-- Reading back the bit of iteration `i` (20_memory.md R42). -/
def frameBit (f : Frame) (i : Nat) : Bool :=
  if h : i / 8 < 5 then (f[i / 8]).getLsbD (7 - i % 8) else false

/-- The decision (42_pulse_bit_decoder.md R104): 1 iff the high-phase count strictly exceeds the low-phase count. -/
def decidedBit (high low : Count) : Bool := decide (low < high)

/-- The truncated sum of the four data bytes (43_crc8_validator.md R115, R117). -/
def checksum (f : Frame) : Byte := f[0] + f[1] + f[2] + f[3]

/-- The checksum test (43_crc8_validator.md R115). -/
def checksumOk (f : Frame) : Bool := checksum f == f[4]

/-- Humidity in tenths (44_field_extractor.md R121). -/
def humidityTenths (b0 b1 : Byte) : Tenths := b0.setWidth 16 * 10 + b1.setWidth 16

/-- Magnitude of the temperature in tenths (44_field_extractor.md R122). -/
def temperatureMagnitude (b2 b3 : Byte) : Tenths := (b2.extractLsb' 0 7).setWidth 16 * 10 + b3.setWidth 16

/-- Temperature in tenths, sign-magnitude in and two's complement out (44_field_extractor.md R122). -/
def temperatureTenths (b2 b3 : Byte) : Tenths :=
  if b2.getLsbD 7 then -(temperatureMagnitude b2 b3) else temperatureMagnitude b2 b3

/-- A level on the line port: `HIGH` is 1 and `LOW` is 0 (20_memory.md R41). -/
def levelCode : Level → BitVec 1
  | .low => 0
  | .high => 1

/-- The code of a request on the line port; 0b11 is never issued (30_encoding.md R75). -/
def LineReq.code : LineReq → BitVec 2
  | .rel => 0b00
  | .low => 0b01
  | .rd => 0b10

/-- The status of an answer to `REL` or `LOW` (30_encoding.md R75). -/
def DriveAns.status : DriveAns → BitVec 2
  | .ok => 0b00
  | .err _ => 0b11

/-- The status of an answer to `RD` (30_encoding.md R75). -/
def ReadAns.status : ReadAns → BitVec 2
  | .level .low => 0b01
  | .level .high => 0b10
  | .err _ => 0b11

/-- The code of a request on the delay port: the unit bit, then the 6-bit count (30_encoding.md R76). The engine's requests
have the counts 1, 20 and 40. `DelayReq` holds any count, and R76 gives a count of 64 or more no code: that this function
takes such a count modulo 64 is the model's DESIGN CHOICE, log entry 15. No turn of the machine uses it. -/
def DelayReq.code (d : DelayReq) : BitVec 7 :=
  (match d.unit with
    | .us => 0#1
    | .ms => 1#1) ++ BitVec.ofNat 6 d.count

/-- `ERRC` (30_encoding.md R66). -/
def ErrCode.code : ErrCode → BitVec 2
  | .none => 0
  | .timeout => 1
  | .crc => 2
  | .linefault => 3

/-- `PHASE` (30_encoding.md R67). -/
def Phase.code : Phase → BitVec 3
  | .idle => 0
  | .handshaking => 1
  | .bitreading => 2
  | .trailing => 3
  | .checksum => 4
  | .done => 5
  | .failed => 6

/-- The number of a sequencer position (10_state.md R13). -/
def Upc.code : Upc → BitVec 4
  | .u0 => 0
  | .u1 => 1
  | .u2 => 2
  | .u3 => 3
  | .u4 => 4
  | .u5 => 5
  | .u6 => 6
  | .u7 => 7
  | .u8 => 8
  | .u9 => 9
  | .u10 => 10
  | .u11 => 11

/-- `RBP` as a bit (10_state.md R14). -/
def BitPart.code : BitPart → BitVec 1
  | .lowph => 0
  | .highph => 1

/-- `WPS` as a bit (10_state.md R14). -/
def PollPart.code : PollPart → BitVec 1
  | .sample => 0
  | .delay => 1

/-- The error code and the `LFINFO` value an error leaves (60_exceptions.md R140, R147). -/
def Err.code : Err → ErrCode
  | .timeout => .timeout
  | .crcMismatch => .crc
  | .lineFault _ => .linefault

/-- `e` if the error is `LineFault(e)`, else none (60_exceptions.md R147). -/
def Err.info : Err → Option ErrImage
  | .timeout => none
  | .crcMismatch => none
  | .lineFault e => some e

/-- The six host registers (10_state.md R25). -/
inductive HostReg where
  | ctrl
  | status
  | err
  | lfinfo
  | hum
  | temp
  deriving DecidableEq, Repr

/-- The byte offset of a host register from `BASE` (10_state.md R25). -/
def HostReg.offset : HostReg → Nat
  | .ctrl => 0x00
  | .status => 0x04
  | .err => 0x08
  | .lfinfo => 0x0C
  | .hum => 0x10
  | .temp => 0x14

/-- The bus address of a host register (10_state.md R25; `BASE` is open). The spec gives a bus address no width: that it has 32
bits, so that the sum is modulo 2^32, is the model's DESIGN CHOICE, log entry 22. No turn of the machine uses it. -/
def HostReg.address (r : HostReg) : Word := Config.base + BitVec.ofNat 32 r.offset

/-- The register at a byte offset; no other offset is defined (20_memory.md R45). -/
def HostReg.at (off : Nat) : Option HostReg :=
  match off with
  | 0x00 => some .ctrl
  | 0x04 => some .status
  | 0x08 => some .err
  | 0x0C => some .lfinfo
  | 0x10 => some .hum
  | 0x14 => some .temp
  | _ => none

/-- `STATUS` (10_state.md R27). -/
def Engine.statusWord (e : Engine) : Word :=
  0#10 ++ e.bitidx ++ 0#5 ++ e.ph.code ++ 0#3 ++ BitVec.ofBool e.cmdref ++ BitVec.ofBool e.failFlag ++
    BitVec.ofBool e.doneFlag ++ BitVec.ofBool e.busy ++ BitVec.ofBool e.bound

/-- `ERR` (10_state.md R28). -/
def Engine.errWord (e : Engine) : Word := e.errcode.code.setWidth 32

/-- `LFINFO` (10_state.md R29): the image of the stored value, or 0 when there is none. -/
def Engine.lfinfoWord (e : Engine) : Word :=
  match e.lfinfo with
  | some v => v
  | none => 0

/-- `HUM` (10_state.md R30). -/
def Engine.humWord (e : Engine) : Word := e.hum.setWidth 32

/-- `TEMP` (10_state.md R31). -/
def Engine.tempWord (e : Engine) : Word := e.temp.signExtend 32

/-- What a read of a host register returns; `CTRL` stores nothing and reads 0 (10_state.md R26 to R31). -/
def Engine.readReg (e : Engine) : HostReg → Word
  | .ctrl => 0
  | .status => e.statusWord
  | .err => e.errWord
  | .lfinfo => e.lfinfoWord
  | .hum => e.humWord
  | .temp => e.tempWord

end Sys2Proof.Machine
end

