-- ==== Sys2Proof/Machine/Ops.lean ====
section
/-! DEFINITION. The shared operations: the abort `fail(x)` (60_exceptions.md R147), the refusal (40_host_commands.md
R85), the answers of the environment (20_memory.md R54), outstanding requests (R49) and the five requests on the two ports
(45_line_and_delay_primitives.md). There is no return from an abort (60_exceptions.md R148). -/

namespace Sys2Proof.Machine

/-! ## Registers -/

/-- The working registers and the sub-position cleared, as an acceptance, an abort and EXTRACT do
(40_host_commands.md R83, 60_exceptions.md R147, 44_field_extractor.md R120). -/
def Engine.clearWork (e : Engine) : Engine :=
  { e with frame := Vector.replicate 5 0, bitidx := 0, cnt := 0, lowcnt := 0, rbp := .lowph, wps := .sample }

/-- The result registers cleared (40_host_commands.md R81, R83). -/
def Engine.clearResults (e : Engine) : Engine :=
  { e with errcode := .none, lfinfo := none, hum := 0, temp := 0 }

/-- `fail(x)`, the block's one trap entry (60_exceptions.md R147). -/
def Engine.fail (x : Err) (e : Engine) : Engine :=
  { e.clearWork with errcode := x.code, lfinfo := x.info, hum := 0, temp := 0, ph := .failed, upc := .u0 }

/-- `refuse` (40_host_commands.md R85). -/
def Engine.refuse (e : Engine) : Engine := { e with cmdref := true }

/-- The abort, on the whole machine: no request is issued (60_exceptions.md R147). -/
def State.fail (x : Err) (s : State) : State := { s with eng := s.eng.fail x }

/-- The refusal, on the whole machine: no request is issued (40_host_commands.md R85). -/
def State.refuse (s : State) : State := { s with eng := s.eng.refuse }

/-! ## The environment's answers -/

/-- The `n`-th free answer to a `REL` or `LOW` (20_memory.md R54). FREE VALUE, log entry 4. -/
def freeDrive (n : Nat) : DriveAns :=
  match Config.freeFault n with
  | some e => .err (Config.errorImage e)
  | none => .ok

/-- The `n`-th free answer to a `RD` (20_memory.md R54). FREE VALUE, log entry 4. -/
def freeRead (n : Nat) : ReadAns :=
  match Config.freeFault n with
  | some e => .err (Config.errorImage e)
  | none => .level (Config.freeLevel n)

/-- The answer to the next `REL` or `LOW`, and the environment after it: the next listed one, else a free one. -/
def Environment.nextDrive (v : Environment) : DriveAns × Environment :=
  match v.drives with
  | a :: as => (a, { v with drives := as })
  | [] => (freeDrive v.draws, { v with draws := v.draws + 1 })

/-- The answer to the next `RD`, and the environment after it: the next listed one, else `rest`, else a free one. -/
def Environment.nextRead (v : Environment) : ReadAns × Environment :=
  match v.reads with
  | a :: as => (a, { v with reads := as })
  | [] =>
    match v.rest with
    | some l => (.level l, v)
    | none => (freeRead v.draws, { v with draws := v.draws + 1 })

/-- What a drive request does to the shadow `LDRV`: `onOk` if it was answered `ok`, UNKNOWN if it faulted
(20_memory.md R54). -/
def DriveAns.driver (onOk : LineDriver) : DriveAns → LineDriver
  | .ok => onOk
  | .err _ => .unknown

/-- A `REL` request at the line capability: its answer, and the environment after it (20_memory.md R54). -/
def Environment.rel (v : Environment) : DriveAns × Environment :=
  (v.nextDrive.1, { v.nextDrive.2 with ldrv := v.nextDrive.1.driver .released })

/-- A `LOW` request at the line capability: its answer, and the environment after it (20_memory.md R54). -/
def Environment.low (v : Environment) : DriveAns × Environment :=
  (v.nextDrive.1, { v.nextDrive.2 with ldrv := v.nextDrive.1.driver .drivenLow })

/-- What a request's answer does to the environment, whoever made the request: a line request takes the next answer of its
kind, and a delay is answered `done` (20_memory.md R54, 45_line_and_delay_primitives.md R133). -/
def Environment.answer (r : PortReq) (v : Environment) : Environment :=
  match r with
  | .line .rel => v.rel.2
  | .line .low => v.low.2
  | .line .rd => v.nextRead.2
  | .delay _ => v

/-! ## Outstanding requests (20_memory.md R49, 30_encoding.md R75, 70_reset_and_hazards.md R161; log entry 6) -/

/-- The answer to the request held, if one is, has arrived: nothing is outstanding. -/
def State.answered (s : State) : State := { s with held := none }

/-- The request held, if one is, is abandoned. -/
def State.abandon (s : State) : State := { s with held := none, abandoned := s.abandoned ++ s.held.toList }

/-- The `n`-th abandoned request is answered: the line capability carries it out, and the engine ignores the answer, so
that it is no event and no register changes (70_reset_and_hazards.md R161). Nothing happens if there is no such request. -/
def State.lateAnswer (n : Nat) (s : State) : State :=
  match s.abandoned[n]? with
  | some r => { s with env := s.env.answer r, abandoned := s.abandoned.eraseIdx n }
  | none => s

/-! ## The requests of the engine: one request, one answer, one event (00_scope.md R7, R8) -/

/-- `LineRelease()` (45_line_and_delay_primitives.md R131). -/
def lineRelease (s : State) : DriveAns × State :=
  (s.env.rel.1, { s with env := s.env.rel.2, events := .rel s.env.rel.1 :: s.events })

/-- `LineLow()` (R130). -/
def lineLow (s : State) : DriveAns × State :=
  (s.env.low.1, { s with env := s.env.low.2, events := .low s.env.low.1 :: s.events })

/-- `LineRead()` (R132). -/
def lineRead (s : State) : ReadAns × State :=
  (s.env.nextRead.1, { s with env := s.env.nextRead.2, events := .rd s.env.nextRead.1 :: s.events })

/-- `DelayUs(n)` (R133): always answered `done`, no other effect. -/
def requestUs (n : Nat) (s : State) : State := { s with events := .dus n :: s.events }

/-- `DelayMs(n)` (R134): always answered `done`, no other effect. -/
def requestMs (n : Nat) (s : State) : State := { s with events := .dms n :: s.events }

/-! ## Procedures that may abort -/

/-- How a procedure ends: with a result, or aborted in a state that `fail` has made (40_host_commands.md R86, R87). -/
inductive Flow (α : Type) where
  | ok (a : α) (s : State)
  | failed (s : State)

/-- Sequential composition; an abort ends the whole procedure at once (40_host_commands.md R86, R87). -/
def Flow.andThen {α β : Type} (f : Flow α) (k : α → State → Flow β) : Flow β :=
  match f with
  | .ok a s => k a s
  | .failed s => .failed s

/-- The state a procedure ends in. -/
def Flow.final {α : Type} : Flow α → State
  | .ok _ s => s
  | .failed s => s

end Sys2Proof.Machine
end

