-- ==== Sys2Proof/Machine/Sequencer.lean ====
section
/-! DEFINITION. The sequencer: the hardwired micro-program (10_state.md R13), where each micro-operation continues, the
completion actions of the pulse-waits (41_handshake.md R94, 42_pulse_bit_decoder.md R103, R105, R107) and the `SAMPLE`
and `DELAY` micro-steps (R100). -/

namespace Sys2Proof.Machine

/-- Which operation the next micro-step performs (10_state.md R13; inside U7, U8, U9 by `WPS`, R14 and
42_pulse_bit_decoder.md R100). At U0 the engine has no step of its own. -/
def Engine.microOp (e : Engine) : Option Instr :=
  match e.upc with
  | .u0 => none
  | .u1 => some .setRelease
  | .u2 => some (.delayMs Config.tSettleMs)
  | .u3 => some .setLow
  | .u4 => some (.delayMs Config.tStartMs)
  | .u5 => some .setRelease
  | .u6 => some (.delayUs Config.tReleaseUs)
  | .u7 | .u8 | .u9 =>
    match e.wps with
    | .sample => some .readLine
    | .delay => some (.delayUs Config.tPollUs)
  | .u10 => some .crcCheck
  | .u11 => some .extract

/-- The request that a micro-operation of one micro-step issues (45_line_and_delay_primitives.md R130 to R134); the others
issue none, or are no micro-step (10_state.md R13). -/
def requestOf (i : Instr) : Option PortReq :=
  match i with
  | .setRelease => some (.line .rel)
  | .setLow => some (.line .low)
  | .readLine => some (.line .rd)
  | .delayUs n => some (.delay ⟨.us, n⟩)
  | .delayMs n => some (.delay ⟨.ms, n⟩)
  | .nop | .construct | .measure | .release | .waitPulse _ | .readBit | .handshake | .bitLoop | .trail | .crcCheck
  | .extract => none

/-- The request of the next micro-step, if it issues one (10_state.md R13). -/
def Engine.request (e : Engine) : Option PortReq := e.microOp.bind requestOf

/-- The engine issues the request of its next micro-step and holds it until its answer arrives (30_encoding.md R75). A
request already held stays (20_memory.md R49: never more than one). -/
def State.issueRequest (s : State) : State :=
  match s.held with
  | some _ => s
  | none => { s with held := s.eng.request }

/-- `RBP <- LOWPH; WPS <- SAMPLE; CNT <- 0`: how a bit read begins (41_handshake.md R93). -/
def Engine.beginBit (e : Engine) : Engine := { e with rbp := .lowph, wps := .sample, cnt := 0 }

/-- Where a primitive continues when it succeeds: the next position for U1..U6, and the bit read initialised by the
step at U6 (10_state.md R13, 41_handshake.md R93). The position alone decides: at U1..U6 a primitive that is not the
position's own, which the hardware never performs there (30_encoding.md R71), advances all the same, and elsewhere a
primitive moves nothing. DESIGN CHOICE, log entry 11. -/
def Engine.proceed (e : Engine) : Engine :=
  match e.upc with
  | .u1 => { e with upc := .u2 }
  | .u2 => { e with upc := .u3 }
  | .u3 => { e with upc := .u4 }
  | .u4 => { e with upc := .u5 }
  | .u5 => { e with upc := .u6 }
  | .u6 => { e.beginBit with upc := .u7 }
  | .u0 | .u7 | .u8 | .u9 | .u10 | .u11 => e

/-- `proceed` on the whole machine. -/
def State.proceed (s : State) : State := { s with eng := s.eng.proceed }

/-- `CNT <- 0; LOWCNT <- 0; RBP <- LOWPH; WPS <- SAMPLE`: what every completed bit read leaves
(42_pulse_bit_decoder.md R103). -/
def Engine.endBit (e : Engine) : Engine := { e.beginBit with lowcnt := 0 }

/-- Completion of the low-phase wait of a bit read (42_pulse_bit_decoder.md R103). -/
def Engine.lowDone (e : Engine) : Engine :=
  { e with lowcnt := e.cnt, cnt := 0, rbp := .highph, wps := .sample }

/-- Completion of the acknowledgment bit read at U7, its bit discarded (41_handshake.md R94). -/
def Engine.ackDone (e : Engine) : Engine := { e.endBit with ph := .bitreading, bitidx := 0, upc := .u8 }

/-- Completion of a bit read at U8: the bit is stored and counted, and the 40th also ends the loop
(42_pulse_bit_decoder.md R105, R106). -/
def Engine.bitStored (b : Bool) (e : Engine) : Engine :=
  if e.bitidx.toNat + 1 = Config.nBits then
    { e.endBit with frame := storeBit e.frame e.bitidx.toNat b, bitidx := e.bitidx + 1, ph := .trailing, upc := .u9 }
  else
    { e.endBit with frame := storeBit e.frame e.bitidx.toNat b, bitidx := e.bitidx + 1 }

/-- The caller's completion of a bit read that yielded `b`, by position (42_pulse_bit_decoder.md R103). At a
position that calls no bit read the bit has no destination (log entry 11). -/
def Engine.bitDone (b : Bool) (e : Engine) : Engine :=
  match e.upc with
  | .u7 => e.ackDone
  | .u8 => e.bitStored b
  | .u0 | .u1 | .u2 | .u3 | .u4 | .u5 | .u6 | .u9 | .u10 | .u11 => e.endBit

/-- Completion of the trailing pulse-wait (42_pulse_bit_decoder.md R107). -/
def Engine.trailDone (e : Engine) : Engine := { e with cnt := 0, ph := .checksum, upc := .u10 }

/-- The caller's completion of a pulse-wait whose result is in `CNT`, by position (42_pulse_bit_decoder.md R100, R103,
R107). The position and `RBP` decide, not the level waited for: a `WAIT_PULSE LOW` performed by name at U9, where the
micro-program has `WAIT_PULSE HIGH` only (10_state.md R13), completes as `TRAIL`, and at U7 and U8 either level completes
the wait that `RBP` names. At a position that calls no pulse-wait the result stays in `CNT`. DESIGN CHOICE, log entry 11. -/
def Engine.waitDone (e : Engine) : Engine :=
  match e.upc with
  | .u7 | .u8 =>
    match e.rbp with
    | .lowph => e.lowDone
    | .highph => e.bitDone (decidedBit e.cnt e.lowcnt)
  | .u9 => e.trailDone
  | .u0 | .u1 | .u2 | .u3 | .u4 | .u5 | .u6 | .u10 | .u11 => e

/-- `waitDone` on the whole machine. -/
def State.waitDone (s : State) : State := { s with eng := s.eng.waitDone }

/-- What a sample did: it showed the target, it missed it and the wait goes on, or it aborted the measurement. -/
inductive Sampled where
  | hit (s : State)
  | miss (s : State)
  | failed (s : State)

/-- Counting a miss: `CNT <- CNT + 1; WPS <- DELAY` (42_pulse_bit_decoder.md R100). -/
def Engine.countMiss (e : Engine) : Engine := { e with cnt := e.cnt + 1, wps := .delay }

/-- The `SAMPLE` micro-step of a pulse-wait for `target`, up to the caller's completion action: a fault aborts; the
target ends the wait; any other sample is counted, and aborts with `Timeout` if the count would exceed the limit
(42_pulse_bit_decoder.md R100, R102; 60_exceptions.md R145). -/
def pollSample (target : Level) (s : State) : Sampled :=
  match (lineRead s).1 with
  | .err e => .failed ((lineRead s).2.fail (.lineFault e))
  | .level l =>
    if l = target then .hit (lineRead s).2
    else if s.eng.cnt.toNat < Config.timeoutCount then
      .miss { (lineRead s).2 with eng := s.eng.countMiss }
    else .failed ((lineRead s).2.fail .timeout)

/-- Where a microsecond delay continues: `WPS <- SAMPLE` at a polling position (42_pulse_bit_decoder.md R100), else as
any primitive. -/
def Engine.afterUs (e : Engine) : Engine := if e.polling then { e with wps := .sample } else e.proceed

/-- The `DELAY` micro-step of a pulse-wait (42_pulse_bit_decoder.md R100). -/
def pollDelay (s : State) : State :=
  { requestUs Config.tPollUs s with eng := { s.eng with wps := .sample } }

end Sys2Proof.Machine
end

