-- ==== Sys2Proof/Machine/Primitives.lean ====
section
/-! DEFINITION. The five line and delay primitives (45_line_and_delay_primitives.md R130 to R136). -/

namespace Sys2Proof.Machine

/-- `SET_RELEASE` as a procedure (45_line_and_delay_primitives.md R131). -/
def setRelease (s : State) : Flow Unit :=
  match (lineRelease s).1 with
  | .ok => .ok () (lineRelease s).2.proceed
  | .err e => .failed ((lineRelease s).2.fail (.lineFault e))

/-- `SET_RELEASE` (45_line_and_delay_primitives.md R131). -/
def execSetRelease (s : State) : Host.Outcome State Fault Refusal := .next (setRelease s).final

/-- `SET_LOW` as a procedure (45_line_and_delay_primitives.md R130). -/
def setLow (s : State) : Flow Unit :=
  match (lineLow s).1 with
  | .ok => .ok () (lineLow s).2.proceed
  | .err e => .failed ((lineLow s).2.fail (.lineFault e))

/-- `SET_LOW` (45_line_and_delay_primitives.md R130). -/
def execSetLow (s : State) : Host.Outcome State Fault Refusal := .next (setLow s).final

/-- `READ_LINE` at the engine's position: inside a pulse-wait it is the `SAMPLE` micro-step with the caller's completion
action (42_pulse_bit_decoder.md R100); elsewhere its level has no destination (log entry 11). -/
def readLine (s : State) : State :=
  if s.eng.polling then
    match pollSample s.eng.target s with
    | .hit t => t.waitDone
    | .miss t => t
    | .failed t => t
  else
    match (lineRead s).1 with
    | .level _ => (lineRead s).2
    | .err e => (lineRead s).2.fail (.lineFault e)

/-- `READ_LINE` (45_line_and_delay_primitives.md R132). -/
def execReadLine (s : State) : Host.Outcome State Fault Refusal := .next (readLine s)

/-- `DELAY_US n` as a procedure: it cannot fail (45_line_and_delay_primitives.md R133). -/
def delayUs (n : Nat) (s : State) : State := { requestUs n s with eng := s.eng.afterUs }

/-- `DELAY_US n` (45_line_and_delay_primitives.md R133). -/
def execDelayUs (n : Nat) (s : State) : Host.Outcome State Fault Refusal := .next (delayUs n s)

/-- `DELAY_MS n` as a procedure: it cannot fail (45_line_and_delay_primitives.md R134). -/
def delayMs (n : Nat) (s : State) : State := (requestMs n s).proceed

/-- `DELAY_MS n` (45_line_and_delay_primitives.md R134). -/
def execDelayMs (n : Nat) (s : State) : Host.Outcome State Fault Refusal := .next (delayMs n s)

end Sys2Proof.Machine
end

