-- ==== Sys2Proof/Machine/PulseDecoder.lean ====
section
/-! DEFINITION. `WAIT_PULSE`, `READ_BIT`, `BIT_LOOP` and `TRAIL` performed whole (42_pulse_bit_decoder.md R100 to R108).
They are built from the same sample, delay and completion as the micro-steps; 92_eei_decisions.md D13 allows steps of
this size (log entry 7). -/

namespace Sys2Proof.Machine

/-- The poll loop: at most `fuel` samples. The wait gives it 1001, which it never exhausts, since the 1001st sample
either ends the wait or aborts (42_pulse_bit_decoder.md R102). -/
def waitLoop (target : Level) : Nat → State → Flow Count
  | 0, s => .failed (s.fail .timeout)
  | fuel + 1, s =>
    match pollSample target s with
    | .hit t => .ok t.eng.cnt t
    | .failed t => .failed t
    | .miss t => waitLoop target fuel (pollDelay t)

/-- `WAIT_PULSE level` as a procedure with its count (42_pulse_bit_decoder.md R100): `CNT <- 0`, then the poll loop. -/
def waitPulse (target : Level) (s : State) : Flow Count :=
  waitLoop target (Config.timeoutCount + 1) { s with eng := { s.eng with cnt := 0, wps := .sample } }

/-- `WAIT_PULSE level` with the completion action of its caller (42_pulse_bit_decoder.md R100, R103, R107). -/
def execWaitPulse (target : Level) (s : State) : Host.Outcome State Fault Refusal :=
  .next ((waitPulse target s).andThen fun _ t => .ok () t.waitDone).final

/-- `READ_BIT` as a procedure with its bit (42_pulse_bit_decoder.md R103, R104). -/
def readBit (s : State) : Flow Bool :=
  (waitPulse .high { s with eng := { s.eng with rbp := .lowph } }).andThen fun low t =>
    (waitPulse .low { t with eng := { t.eng with lowcnt := low, rbp := .highph } }).andThen fun high u =>
      .ok (decidedBit high u.eng.lowcnt) u

/-- `READ_BIT` followed by its caller's completion action (42_pulse_bit_decoder.md R103). -/
def readBitDone (s : State) : Flow Unit :=
  (readBit s).andThen fun b t => .ok () { t with eng := t.eng.bitDone b }

/-- `READ_BIT` (42_pulse_bit_decoder.md R103). -/
def execReadBit (s : State) : Host.Outcome State Fault Refusal := .next (readBitDone s).final

/-- `n` bit reads in a row. -/
def readBits : Nat → State → Flow Unit
  | 0, s => .ok () s
  | n + 1, s => (readBitDone s).andThen fun _ t => readBits n t

/-- `BIT_LOOP` as a procedure: 40 bit reads at U8, beginning with `BITIDX = 0` (42_pulse_bit_decoder.md R105). -/
def bitLoop (s : State) : Flow Unit :=
  readBits Config.nBits { s with eng := { s.eng with upc := .u8, bitidx := 0 } }

/-- `BIT_LOOP` (42_pulse_bit_decoder.md R105). -/
def execBitLoop (s : State) : Host.Outcome State Fault Refusal := .next (bitLoop s).final

/-- `TRAIL` as a procedure at U9: one wait for `HIGH`, its count discarded (42_pulse_bit_decoder.md R107). -/
def trail (s : State) : Flow Unit :=
  (waitPulse .high { s with eng := { s.eng with upc := .u9, rbp := .lowph } }).andThen fun _ t =>
    .ok () { t with eng := t.eng.trailDone }

/-- `TRAIL` (42_pulse_bit_decoder.md R107). -/
def execTrail (s : State) : Host.Outcome State Fault Refusal := .next (trail s).final

end Sys2Proof.Machine
end

