-- ==== Sys2Proof/Machine/Handshake.lean ====
section
/-! DEFINITION. `HANDSHAKE` performed whole (41_handshake.md R90 to R97), from the primitives and one bit read. -/

namespace Sys2Proof.Machine

/-- The six requests of U1..U6 (41_handshake.md R91 to R93). -/
def startSignal (s : State) : Flow Unit :=
  (setRelease { s with eng := { s.eng with upc := .u1 } }).andThen fun _ t1 =>
    (setLow (delayMs Config.tSettleMs t1)).andThen fun _ t3 =>
      (setRelease (delayMs Config.tStartMs t3)).andThen fun _ t5 =>
        .ok () (delayUs Config.tReleaseUs t5)

/-- `HANDSHAKE` as a procedure: the start signal, then the acknowledgment bit read, discarded (41_handshake.md R90). -/
def handshake (s : State) : Flow Unit := (startSignal s).andThen fun _ t => readBitDone t

/-- `HANDSHAKE` (41_handshake.md R90). -/
def execHandshake (s : State) : Host.Outcome State Fault Refusal := .next (handshake s).final

end Sys2Proof.Machine
end

