-- ==== Sys2Proof/Machine/HostCommands.lean ====
section
/-! DEFINITION. The four host commands (40_host_commands.md R80 to R85). A refused command is a next state with
`CMDREF = 1` (R85; log entry 2). -/

namespace Sys2Proof.Machine

/-- `NOP`: no effect at all, not even on `CMDREF` (40_host_commands.md R84). -/
def execNop (s : State) : Host.Outcome State Fault Refusal := .next s

/-- The registers after an accepted `CONSTRUCT` (40_host_commands.md R81). -/
def Engine.construct (e : Engine) : Engine := { e.clearResults with bound := true, ph := .idle, cmdref := false }

/-- `CONSTRUCT` (40_host_commands.md R81): no request is issued. -/
def execConstruct (s : State) : Host.Outcome State Fault Refusal :=
  .next (if s.eng.acceptsConstruct then { s with eng := s.eng.construct } else s.refuse)

/-- The registers after an accepted `MEASURE` (40_host_commands.md R83). -/
def Engine.measure (e : Engine) : Engine :=
  { e.clearResults.clearWork with cmdref := false, ph := .handshaking, upc := .u1 }

/-- `MEASURE` (40_host_commands.md R83): the acceptance; the measurement then runs by micro-steps (R86). -/
def execMeasure (s : State) : Host.Outcome State Fault Refusal :=
  .next (if s.eng.acceptsMeasure then { s with eng := s.eng.measure } else s.refuse)

/-- The registers after an accepted `RELEASE` (40_host_commands.md R82). -/
def Engine.release (e : Engine) : Engine := { e with bound := false, cmdref := false }

/-- `RELEASE` (40_host_commands.md R82): no request is issued; the wire is not released. -/
def execRelease (s : State) : Host.Outcome State Fault Refusal :=
  .next (if s.eng.acceptsRelease then { s with eng := s.eng.release } else s.refuse)

end Sys2Proof.Machine
end

