-- ==== Sys2Proof/Machine/Validator.lean ====
section
/-! DEFINITION. `CRC_CHECK` (43_crc8_validator.md R115) and `EXTRACT` (44_field_extractor.md R120): one micro-step each, no
request. -/

namespace Sys2Proof.Machine

/-- The registers after `CRC_CHECK` (43_crc8_validator.md R115). -/
def Engine.crcCheck (e : Engine) : Engine :=
  if checksumOk e.frame then { e with upc := .u11 } else e.fail .crcMismatch

/-- `CRC_CHECK` (43_crc8_validator.md R115). -/
def execCrcCheck (s : State) : Host.Outcome State Fault Refusal := .next { s with eng := s.eng.crcCheck }

/-- The registers after `EXTRACT` (44_field_extractor.md R120 to R122). -/
def Engine.extract (e : Engine) : Engine :=
  { e.clearWork with
    hum := humidityTenths e.frame[0] e.frame[1]
    temp := temperatureTenths e.frame[2] e.frame[3]
    ph := .done
    upc := .u0 }

/-- `EXTRACT` (44_field_extractor.md R120). -/
def execExtract (s : State) : Host.Outcome State Fault Refusal := .next { s with eng := s.eng.extract }

end Sys2Proof.Machine
end

