-- ==== Sys2Proof/Machine/Dispatch.lean ====
section
/-! DEFINITION. The meaning of every operation of spec/opcode_table.json, one arm each. -/

namespace Sys2Proof.Machine

def exec (i : Instr) (s : State) : Host.Outcome State Fault Refusal :=
  match i with
  | .nop => Sys2Proof.Machine.execNop s
  | .construct => Sys2Proof.Machine.execConstruct s
  | .measure => Sys2Proof.Machine.execMeasure s
  | .release => Sys2Proof.Machine.execRelease s
  | .setRelease => Sys2Proof.Machine.execSetRelease s
  | .setLow => Sys2Proof.Machine.execSetLow s
  | .readLine => Sys2Proof.Machine.execReadLine s
  | .delayUs n => Sys2Proof.Machine.execDelayUs n s
  | .delayMs n => Sys2Proof.Machine.execDelayMs n s
  | .waitPulse l => Sys2Proof.Machine.execWaitPulse l s
  | .readBit => Sys2Proof.Machine.execReadBit s
  | .handshake => Sys2Proof.Machine.execHandshake s
  | .bitLoop => Sys2Proof.Machine.execBitLoop s
  | .trail => Sys2Proof.Machine.execTrail s
  | .crcCheck => Sys2Proof.Machine.execCrcCheck s
  | .extract => Sys2Proof.Machine.execExtract s

end Sys2Proof.Machine
end

