-- ==== Sys2Proof/Machine/HostPort.lean ====
section
/-! DEFINITION. What a turn of the host does: register reads and writes (20_memory.md R45, R46, 10_state.md R25 to R31),
reset (70_reset_and_hazards.md R160, R161), and the host's own use of the two capabilities (40_host_commands.md R80,
20_memory.md R53). -/

namespace Sys2Proof.Machine

/-- What comes back to the host is put before what came back earlier. -/
def State.give (r : HostReturn) (s : State) : State := { s with returned := r :: s.returned }

/-- `HostRead(off)`: no side effect on the engine (20_memory.md R46). A width other than 32 bits, or an offset that is
no register's, is refused (R45). -/
def hostRead (bytes off : Nat) (s : State) : Host.Outcome State Fault Refusal :=
  if bytes = 4 then
    match HostReg.at off with
    | some r => .next (s.give (.data off (s.eng.readReg r)))
    | none => .refused .hostAccess
  else .refused .hostAccess

/-- `HostWrite(off, v)`: `CTRL` presents the command `v[1:0]` in this same step (10_state.md R26, 40_host_commands.md
R80); the other registers ignore writes (20_memory.md R46); any other access is refused (R45). -/
def hostWrite (bytes off : Nat) (v : Word) (s : State) : Host.Outcome State Fault Refusal :=
  if bytes = 4 then
    match HostReg.at off with
    | some .ctrl => exec (commandOf v) s
    | some .status => .next s
    | some .err => .next s
    | some .lfinfo => .next s
    | some .hum => .next s
    | some .temp => .next s
    | none => .refused .hostAccess
  else .refused .hostAccess

/-- Reset: every register of the engine at its reset value, an outstanding request abandoned, no request issued, and the
environment as it was (70_reset_and_hazards.md R160, R161; log entries 6 and 16). -/
def State.applyReset (s : State) : State := { s.abandon with eng := Engine.reset }

/-- The host's own request on the line, which is no event of the engine (20_memory.md R54). -/
def hostLine (r : LineReq) (s : State) : State :=
  match r with
  | .rel => State.give (.drive .rel s.env.rel.1) { s with env := s.env.rel.2 }
  | .low => State.give (.drive .low s.env.low.1) { s with env := s.env.low.2 }
  | .rd => State.give (.level s.env.nextRead.1) { s with env := s.env.nextRead.2 }

/-- One step of the host. -/
def hostStep (a : HostAct) (s : State) : Host.Outcome State Fault Refusal :=
  match a with
  | .read bytes off => hostRead bytes off s
  | .write bytes off v => hostWrite bytes off v s
  | .reset => .next s.applyReset
  | .line r => if s.eng.bound then .refused .lineNotFree else .next (hostLine r s)
  | .delay d => if s.eng.busy then .refused .delayNotFree else .next (s.give (.elapsed d))

end Sys2Proof.Machine
end

