-- ==== Sys2Proof/Machine/Turns.lean ====
section
/-! DEFINITION. Whose turn it is and what that turn does (20_memory.md R52, log entry 8), and how an operation given as a
code word is placed so that the next step performs it (log entries 9 and 10). -/

namespace Sys2Proof.Machine

/-- One micro-step: the operation that the micro-program has at the sequencer's position (10_state.md R13). A request
issued before is answered in it (30_encoding.md R75; log entry 6). At U0 "the engine is at rest and has no step of its
own", and nothing changes. -/
def engineStep (s : State) : Host.Outcome State Fault Refusal :=
  match s.eng.microOp with
  | some i => exec i s.answered
  | none => .next s

/-- The next turn. With none listed the engine runs freely. `RUN` stays listed until the engine is at rest
(30_encoding.md R72). -/
def takeTurn (s : State) : Host.Outcome State Fault Refusal :=
  match s.turns with
  | [] => engineStep s
  | .host a :: ts => hostStep a { s with turns := ts }
  | .engine :: ts => engineStep { s with turns := ts }
  | .request :: ts => .next (State.issueRequest { s with turns := ts })
  | .lateAnswer n :: ts => .next (State.lateAnswer n { s with turns := ts })
  | .run :: ts => if s.eng.upc = .u0 then .next { s with turns := ts } else engineStep s
  | .issue i :: ts => exec i { s with turns := ts }

/-- The registers with the sequencer standing where the micro-program performs the micro-operation `i`
(10_state.md R13, R14), and `BOUND = 1`; a host command needs no position. A delay stands where its count belongs,
or at U6 or U2 for a count the micro-program does not use. -/
def Engine.placedFor (i : Instr) (e : Engine) : Engine :=
  match i with
  | .nop => e
  | .construct => e
  | .measure => e
  | .release => e
  | .setRelease => { e with bound := true, ph := .handshaking, upc := .u1 }
  | .setLow => { e with bound := true, ph := .handshaking, upc := .u3 }
  | .readLine => { e with bound := true, ph := .handshaking, upc := .u7, wps := .sample }
  | .delayUs n =>
    if n = Config.tPollUs then { e with bound := true, ph := .handshaking, upc := .u7, wps := .delay }
    else { e with bound := true, ph := .handshaking, upc := .u6 }
  | .delayMs n =>
    if n = Config.tStartMs then { e with bound := true, ph := .handshaking, upc := .u4 }
    else { e with bound := true, ph := .handshaking, upc := .u2 }
  | .waitPulse .high => { e with bound := true, ph := .handshaking, upc := .u7, rbp := .lowph, wps := .sample }
  | .waitPulse .low => { e with bound := true, ph := .handshaking, upc := .u7, rbp := .highph, wps := .sample }
  | .readBit => { e with bound := true, ph := .handshaking, upc := .u7, rbp := .lowph, wps := .sample }
  | .handshake => { e with bound := true, ph := .handshaking, upc := .u1 }
  | .bitLoop => { e with bound := true, ph := .bitreading, upc := .u8, bitidx := 0, rbp := .lowph, wps := .sample }
  | .trail => { e with bound := true, ph := .trailing, upc := .u9, bitidx := 40, rbp := .lowph, wps := .sample }
  | .crcCheck => { e with bound := true, ph := .checksum, upc := .u10, bitidx := 40 }
  | .extract => { e with bound := true, ph := .checksum, upc := .u11, bitidx := 40 }

/-- The turn that performs an operation given as a code word: a host command is the host's write of the whole word to
`CTRL` (10_state.md R26), a micro-operation is issued by name. -/
def turnFor (i : Instr) (w : Nat) : Turn :=
  match i with
  | .nop | .construct | .measure | .release => .host (.write 4 0x00 (BitVec.ofNat 32 w))
  | .setRelease | .setLow | .readLine | .delayUs _ | .delayMs _ | .waitPulse _ | .readBit | .handshake | .bitLoop
  | .trail | .crcCheck | .extract => .issue i

/-- The state in which the next step performs the operation that the code word `w` of `nbits` bits stands for; a word
that stands for none changes nothing. -/
def placeWord (nbits w : Nat) (s : State) : State :=
  match decodeTableWord nbits w with
  | some i => { s with eng := s.eng.placedFor i, turns := turnFor i w :: s.turns }
  | none => s

end Sys2Proof.Machine
end

