-- ==== Sys2Proof/Machine/Step.lean ====
section
/-! DEFINITION. One step of the machine, and the placing of a code word for it. Both only call Machine/Turns.lean. -/

namespace Sys2Proof.Machine

/-- One step: a step of the host or a micro-step of the engine (00_scope.md R7, 20_memory.md R52). -/
def step (s : State) : Host.Outcome State Fault Refusal := takeTurn s

/-- `s` with the operation of the code word `w` placed so that the very next step performs it (log entry 10). -/
def State.withFetchWord (s : State) (nbits w : Nat) : State := placeWord nbits w s

end Sys2Proof.Machine
end

