-- ==== Sys2Proof/Machine/Script.lean ====
section
/-! DEFINITION. The textual notation of 30_encoding.md: host programs (R72) as turns, and line scripts (R73) as the answers
listed in the environment. It carries no meaning beyond the rules it abbreviates. -/

namespace Sys2Proof.Machine

/-- One line of a host program (30_encoding.md R72). -/
inductive HostLine where
  | construct
  | measure
  | release
  | nop
  | rd (r : HostReg)
  | reset
  | run
  deriving DecidableEq, Repr

/-- The host's write of a command to `CTRL` (30_encoding.md R72). -/
def writeCommand (i : Instr) : Turn := .host (.write 4 0x00 (BitVec.ofNat 32 (encode i).bits))

/-- The turn a line of a host program stands for (30_encoding.md R72). -/
def HostLine.turn : HostLine → Turn
  | .construct => writeCommand .construct
  | .measure => writeCommand .measure
  | .release => writeCommand .release
  | .nop => writeCommand .nop
  | .rd r => .host (.read 4 r.offset)
  | .reset => .host .reset
  | .run => .run

/-- A run of samples of a line script, `L*n` or `H*n` (30_encoding.md R73). -/
abbrev SampleRun := Level × Nat

/-- A line script (30_encoding.md R73): runs of samples, a level for ever after them if the script ends in `L...` or
`H...`, and the faults `X(e)@k` in rising order of `k`. -/
structure LineScript where
  runs : List SampleRun
  forever : Option Level
  faults : List (Nat × ErrImage)
  deriving DecidableEq, Repr

/-- `ACK(a,b)` (30_encoding.md R73). -/
def ackPulses (a b : Nat) : List SampleRun := [(.low, a), (.high, b)]

/-- `S0` or `S1` (30_encoding.md R73). -/
def symbol (b : Bool) : List SampleRun := [(.low, 50), (.high, if b then 70 else 27)]

/-- `BYTE(v)`: the eight symbols, most significant bit first (30_encoding.md R73). -/
def byteSymbols (v : Byte) : List SampleRun :=
  symbol (v.getLsbD 7) ++ symbol (v.getLsbD 6) ++ symbol (v.getLsbD 5) ++ symbol (v.getLsbD 4) ++
    symbol (v.getLsbD 3) ++ symbol (v.getLsbD 2) ++ symbol (v.getLsbD 1) ++ symbol (v.getLsbD 0)

/-- `FRAMESYM(b0,b1,b2,b3,b4)` (30_encoding.md R73). -/
def frameSymbols (f : Frame) : List SampleRun :=
  byteSymbols f[0] ++ byteSymbols f[1] ++ byteSymbols f[2] ++ byteSymbols f[3] ++ byteSymbols f[4]

/-- `END` (30_encoding.md R73). -/
def endOfFrame : List SampleRun := [(.low, 50), (.high, 1)]

/-- The samples of a list of runs, in order. -/
def samplesOf : List SampleRun → List ReadAns
  | [] => []
  | (l, n) :: rs => List.replicate n (.level l) ++ samplesOf rs

/-- The samples padded to at least `n`: with the level that lasts for ever, or, in a script without one, with free answers,
since the spec does not say what the reads past the last token answer. The filler at place `j` is the free answer number
`d + j`. DESIGN CHOICE, log entry 26. -/
def padSamples (l : Option Level) (d n : Nat) (rs : List ReadAns) : List ReadAns :=
  match l with
  | some l => rs ++ List.replicate (n - rs.length) (.level l)
  | none => rs ++ (List.range' rs.length (n - rs.length)).map fun j => freeRead (d + j)

/-- The fault of the `k`-th line request put among the read answers: request `3 + n` is the `n`-th read, and no token
is consumed by it (30_encoding.md R73, 95_test_vectors.md). Where the script has fewer samples than that,
`padSamples` says what the reads before it answer (log entry 26). -/
def putFault (l : Option Level) (d k : Nat) (e : ErrImage) (rs : List ReadAns) : List ReadAns :=
  let padded := padSamples l d (k - 4) rs
  padded.take (k - 4) ++ .err e :: padded.drop (k - 4)

/-- The answer of drive request `k` (1, 2 or 3): `ok` unless an `X` token says otherwise (30_encoding.md R73). -/
def driveAnswer (faults : List (Nat × ErrImage)) (k : Nat) : DriveAns :=
  match faults.lookup k with
  | some e => .err e
  | none => .ok

/-- The read answers of a line script, its faults put in; fillers, if any, are free answers from number `d` on. -/
def LineScript.readAnswers (c : LineScript) (d : Nat) : List ReadAns :=
  (c.faults.filter fun f => decide (4 ≤ f.1)).foldl (fun rs f => putFault c.forever d f.1 f.2 rs) (samplesOf c.runs)

/-- The environment with a line script for one measurement listed in it (30_encoding.md R73). The free answers that may
stand in it as fillers are not drawn again (log entry 26). -/
def LineScript.install (c : LineScript) (v : Environment) : Environment :=
  { v with
    drives := [driveAnswer c.faults 1, driveAnswer c.faults 2, driveAnswer c.faults 3]
    reads := c.readAnswers v.draws
    rest := c.forever
    draws := v.draws + (c.readAnswers v.draws).length }

end Sys2Proof.Machine
end

