-- ==== Sys2Proof/Safety.lean ====
section
/-! DEFINITION. What holds in every state the machine can reach: the invariants of 10_state.md R33 with the tables of R13 to
R15 that they rest on. -/

namespace Sys2Proof.Machine

/-- The phase that 10_state.md R13 gives each sequencer position. -/
def Upc.hasPhase : Upc → Phase → Bool
  | .u0, p => p == .idle || p == .done || p == .failed
  | .u1, p => p == .handshaking
  | .u2, p => p == .handshaking
  | .u3, p => p == .handshaking
  | .u4, p => p == .handshaking
  | .u5, p => p == .handshaking
  | .u6, p => p == .handshaking
  | .u7, p => p == .handshaking
  | .u8, p => p == .bitreading
  | .u9, p => p == .trailing
  | .u10, p => p == .checksum
  | .u11, p => p == .checksum

/-- The values of `BITIDX` in each phase (10_state.md R15). -/
def Phase.hasBitIndex : Phase → Nat → Bool
  | .idle, n => n == 0
  | .handshaking, n => n == 0
  | .bitreading, n => decide (n < 40)
  | .trailing, n => n == 40
  | .checksum, n => n == 40
  | .done, n => n == 0
  | .failed, n => n == 0

/-- `HUM` and `TEMP` are the fields of a frame whose checksum byte is the truncated sum of its first four bytes
(10_state.md R33 (a)). -/
def Engine.ValidMeasurement (e : Engine) : Prop :=
  ∃ f : Frame, checksumOk f = true ∧ e.hum = humidityTenths f[0] f[1] ∧ e.temp = temperatureTenths f[2] f[3]

/-- The invariants of the engine's registers (10_state.md R33 (a) to (f), R13 to R15). -/
structure Engine.Inv (e : Engine) : Prop where
  done_valid : e.ph = .done → e.ValidMeasurement
  no_result : e.ph ≠ .done → e.hum = 0 ∧ e.temp = 0
  failed_iff : e.ph = .failed ↔ e.errcode ≠ .none
  linefault_iff : e.errcode = .linefault ↔ e.lfinfo ≠ none
  rest_clear : e.busy = false → e.upc = .u0 ∧ e.frame = Vector.replicate 5 0
  busy_bound : e.busy = true → e.bound = true
  cnt_le : e.cnt.toNat ≤ Config.timeoutCount
  lowcnt_le : e.lowcnt.toNat ≤ Config.timeoutCount
  hum_le : e.hum.toNat ≤ 2805
  temp_ge : -1525 ≤ e.temp.toInt
  temp_le : e.temp.toInt ≤ 1525
  phase_at : e.upc.hasPhase e.ph = true
  bitidx_at : e.ph.hasBitIndex e.bitidx.toNat = true
  sub_clear : e.polling = false → e.rbp = .lowph ∧ e.wps = .sample ∧ e.cnt = 0
  low_fresh : e.rbp = .lowph → e.lowcnt = 0
  trail_low : e.upc = .u9 → e.rbp = .lowph
  checked : e.upc = .u11 → checksumOk e.frame = true

/-- The image of a value of `E`, which has `E_WIDTH` bits (10_state.md R29). No word is one where `E` is empty. -/
def imageFits (e : ErrImage) : Prop := ∃ x : Config.ErrorValue, Config.errorImage x = e

/-- The error image of a read's answer, if it is a fault, is that of a value of `E`. -/
def ReadAns.Fits : ReadAns → Prop
  | .level _ => True
  | .err e => imageFits e

/-- The error image of a drive request's answer, if it is a fault, is that of a value of `E`. -/
def DriveAns.Fits : DriveAns → Prop
  | .ok => True
  | .err e => imageFits e

/-- A turn that the hardware has (log entry 9). -/
def Turn.isReal : Turn → Bool
  | .host _ => true
  | .engine => true
  | .request => true
  | .lateAnswer _ => true
  | .run => true
  | .issue _ => false

/-- The invariant of the whole machine: the engine's, every error image that of a value of `E` (10_state.md R20, R29), no
request outstanding but that of the next micro-step (30_encoding.md R75), and no turn to come but those the hardware has. -/
structure State.Inv (s : State) : Prop where
  eng : s.eng.Inv
  info_fits : ∀ e, s.eng.lfinfo = some e → imageFits e
  drives_fit : ∀ a ∈ s.env.drives, a.Fits
  reads_fit : ∀ a ∈ s.env.reads, a.Fits
  held_at : ∀ r, s.held = some r → s.eng.request = some r
  turns_real : ∀ t ∈ s.turns, t.isReal = true

/-! ## Words for claims about the environment's answers and the event trace -/

/-- The next `n` read answers of the environment, whatever gives them, and the environment after them. -/
def Environment.takeReads : Nat → Environment → List ReadAns × Environment
  | 0, v => ([], v)
  | n + 1, v => (v.nextRead.1 :: (takeReads n v.nextRead.2).1, (takeReads n v.nextRead.2).2)

/-- The trace, newest first, of `k` samples that missed the target `l`, each followed by its poll delay
(42_pulse_bit_decoder.md R100). -/
def missTrace (l : Level) : Nat → List Event
  | 0 => []
  | k + 1 => .dus 1 :: .rd (.level l.other) :: missTrace l k

/-- The trace, newest first, of a pulse-wait for `l` that returned `k`: `k` misses, then the target
(42_pulse_bit_decoder.md R101). -/
def waitTrace (l : Level) (k : Nat) : List Event := .rd (.level l) :: missTrace l k

/-- The samples that a pulse-wait for `l` which returns `k` consumes (42_pulse_bit_decoder.md R101). -/
def waitSamples (l : Level) (k : Nat) : List ReadAns := List.replicate k (.level l.other) ++ [.level l]

/-- The samples that a bit read with the counts `p.1` (low phase) and `p.2` (high phase) consumes
(42_pulse_bit_decoder.md R103). -/
def bitSamples (p : Nat × Nat) : List ReadAns := waitSamples .high p.1 ++ waitSamples .low p.2

/-- The trace, newest first, of that bit read. -/
def bitTrace (p : Nat × Nat) : List Event := waitTrace .low p.2 ++ waitTrace .high p.1

/-- The trace, newest first, of bit reads in a row. -/
def bitsTrace : List (Nat × Nat) → List Event
  | [] => []
  | p :: ps => bitsTrace ps ++ bitTrace p

/-- A reading of the line. -/
def Event.isRead : Event → Bool
  | .rd _ => true
  | .rel _ => false
  | .low _ => false
  | .dus _ => false
  | .dms _ => false

/-- Which requests the engine issues at which position (10_state.md R13, 30_encoding.md R76). -/
def Event.issuedAt : Event → Upc → Bool
  | .rel _, u => u == .u1 || u == .u5
  | .low _, u => u == .u3
  | .rd _, u => u == .u7 || u == .u8 || u == .u9
  | .dus n, u => (u == .u6 && n == 40) || ((u == .u7 || u == .u8 || u == .u9) && n == 1)
  | .dms n, u => (u == .u2 && n == 1) || (u == .u4 && n == 20)

end Sys2Proof.Machine
end

