-- ==== Sys2Proof/Certificates/Slice0/Obligations.lean ====
section
/-! DEFINITION. The statements for the provers. The event trace stands newest first in `events`. -/

open Sys2Proof Sys2Proof.Machine

/-! ## Host commands -/

/-- 40_host_commands.md R84, with its code. -/
def Obligations.NopChangesNothing : Prop :=
  (∀ s : State, exec .nop s = .next s) ∧ ∀ v : Word, v.toNat % 4 = 0 → commandOf v = .nop

/-- 40_host_commands.md R81, and R85 for the refused form, which the model takes as a next state (log entry 2). -/
def Obligations.ConstructTakesOwnership : Prop :=
  ∀ s : State,
    (s.eng.bound = false → exec .construct s = .next { s with eng := { s.eng with
      bound := true, ph := .idle, errcode := .none, lfinfo := none, hum := 0, temp := 0, cmdref := false } }) ∧
    (s.eng.bound = true → exec .construct s = .next { s with eng := { s.eng with cmdref := true } })

/-- 40_host_commands.md R83, and R85 for the refused form (log entry 2). -/
def Obligations.MeasureStartsTheSequencer : Prop :=
  ∀ s : State,
    (s.eng.bound = true → (s.eng.ph = .idle ∨ s.eng.ph = .done ∨ s.eng.ph = .failed) →
      exec .measure s = .next { s with eng := {
        bound := true, ph := .handshaking, upc := .u1, rbp := .lowph, wps := .sample, bitidx := 0
        frame := Vector.replicate 5 0, cnt := 0, lowcnt := 0, errcode := .none, lfinfo := none, hum := 0, temp := 0
        cmdref := false } }) ∧
    ((s.eng.bound = false ∨ s.eng.ph = .handshaking ∨ s.eng.ph = .bitreading ∨ s.eng.ph = .trailing ∨
        s.eng.ph = .checksum) →
      exec .measure s = .next { s with eng := { s.eng with cmdref := true } })

/-- 40_host_commands.md R82, and R85 for the refused form (log entry 2). -/
def Obligations.ReleaseKeepsTheResult : Prop :=
  ∀ s : State,
    (s.eng.bound = true → (s.eng.ph = .idle ∨ s.eng.ph = .done ∨ s.eng.ph = .failed) →
      exec .release s = .next { s with eng := { s.eng with bound := false, cmdref := false } }) ∧
    ((s.eng.bound = false ∨ s.eng.ph = .handshaking ∨ s.eng.ph = .bitreading ∨ s.eng.ph = .trailing ∨
        s.eng.ph = .checksum) →
      exec .release s = .next { s with eng := { s.eng with cmdref := true } })

/-- 40_host_commands.md R88: construct, release, construct is construct, with an empty event trace. -/
def Obligations.ConstructReleaseConstructIsConstruct : Prop :=
  ∀ s : State, s.eng.bound = false → ∃ t u w : State,
    exec .construct s = .next t ∧ exec .release t = .next u ∧ exec .construct u = .next w ∧
    w = t ∧ w.events = s.events ∧ w.env = s.env

/-! ## The line and delay primitives -/

/-- 45_line_and_delay_primitives.md R131 and 10_state.md R13: at U1 and U5 an `ok` moves on and an error aborts. -/
def Obligations.SetReleaseMovesOnOrAborts : Prop :=
  ∀ (s : State) (a : DriveAns) (v : Environment), s.env.nextDrive = (a, v) →
    (a = .ok → s.eng.upc = .u1 → exec .setRelease s = .next { s with
      eng := { s.eng with upc := .u2 }, env := { v with ldrv := .released }, events := .rel .ok :: s.events }) ∧
    (a = .ok → s.eng.upc = .u5 → exec .setRelease s = .next { s with
      eng := { s.eng with upc := .u6 }, env := { v with ldrv := .released }, events := .rel .ok :: s.events }) ∧
    (∀ e, a = .err e → exec .setRelease s = .next { s with
      eng := s.eng.fail (.lineFault e), env := { v with ldrv := .unknown }, events := .rel (.err e) :: s.events })

/-- 45_line_and_delay_primitives.md R130 and 10_state.md R13: at U3 an `ok` moves on and an error aborts. -/
def Obligations.SetLowMovesOnOrAborts : Prop :=
  ∀ (s : State) (a : DriveAns) (v : Environment), s.env.nextDrive = (a, v) →
    (a = .ok → s.eng.upc = .u3 → exec .setLow s = .next { s with
      eng := { s.eng with upc := .u4 }, env := { v with ldrv := .drivenLow }, events := .low .ok :: s.events }) ∧
    (∀ e, a = .err e → exec .setLow s = .next { s with
      eng := s.eng.fail (.lineFault e), env := { v with ldrv := .unknown }, events := .low (.err e) :: s.events })

/-- 45_line_and_delay_primitives.md R136: a line error of any request becomes `LineFault` with the same value. -/
def Obligations.LineFaultCarriesTheErrorUnchanged : Prop :=
  ∀ (s : State) (e : ErrImage),
    (s.env.nextDrive.1 = .err e → ∃ t, exec .setRelease s = .next t ∧
      t.eng.errcode = .linefault ∧ t.eng.lfinfo = some e ∧ t.eng.ph = .failed ∧ t.eng.upc = .u0) ∧
    (s.env.nextDrive.1 = .err e → ∃ t, exec .setLow s = .next t ∧
      t.eng.errcode = .linefault ∧ t.eng.lfinfo = some e ∧ t.eng.ph = .failed ∧ t.eng.upc = .u0) ∧
    (s.env.nextRead.1 = .err e → ∃ t, exec .readLine s = .next t ∧
      t.eng.errcode = .linefault ∧ t.eng.lfinfo = some e ∧ t.eng.ph = .failed ∧ t.eng.upc = .u0)

/-- 45_line_and_delay_primitives.md R133: at U6 and as the poll delay; at U6 it begins the bit read (41_handshake.md
R93), and between samples it makes a sample next (42_pulse_bit_decoder.md R100). The spec has `n = 40` at U6 and `n = 1` at
U7 to U9; that every other count does the same is the model's choice (log entry 25). -/
def Obligations.DelayUsMovesOn : Prop :=
  ∀ (s : State) (n : Nat),
    (s.eng.upc = .u6 → exec (.delayUs n) s = .next { s with
      eng := { s.eng with upc := .u7, rbp := .lowph, wps := .sample, cnt := 0 }, events := .dus n :: s.events }) ∧
    (s.eng.upc = .u7 ∨ s.eng.upc = .u8 ∨ s.eng.upc = .u9 → exec (.delayUs n) s = .next { s with
      eng := { s.eng with wps := .sample }, events := .dus n :: s.events })

/-- 45_line_and_delay_primitives.md R134: at U2 and U4. The spec has `n = 1` at U2 and `n = 20` at U4 (30_encoding.md R76);
that every other count does the same is the model's choice (log entry 25). -/
def Obligations.DelayMsMovesOn : Prop :=
  ∀ (s : State) (n : Nat),
    (s.eng.upc = .u2 → exec (.delayMs n) s = .next { s with
      eng := { s.eng with upc := .u3 }, events := .dms n :: s.events }) ∧
    (s.eng.upc = .u4 → exec (.delayMs n) s = .next { s with
      eng := { s.eng with upc := .u5 }, events := .dms n :: s.events })

/-- 42_pulse_bit_decoder.md R100, the table of micro-steps, rows "not the target": a miss below the limit is counted,
the miss at the limit aborts with `Timeout`. -/
def Obligations.SampleMissCountsOrTimesOut : Prop :=
  ∀ (s : State) (l : Level) (v : Environment), s.env.nextRead = (.level l, v) →
    (s.eng.upc = .u7 ∨ s.eng.upc = .u8 ∨ s.eng.upc = .u9) →
    ((s.eng.rbp = .lowph ∧ l = .low) ∨ (s.eng.rbp = .highph ∧ l = .high)) →
    (s.eng.cnt.toNat < 1000 → ∃ t, exec .readLine s = .next t ∧ t.eng.cnt.toNat = s.eng.cnt.toNat + 1 ∧
      t = { s with eng := { s.eng with cnt := t.eng.cnt, wps := .delay }, env := v
                   events := .rd (.level l) :: s.events }) ∧
    (s.eng.cnt.toNat = 1000 → exec .readLine s = .next { s with
      eng := s.eng.fail .timeout, env := v, events := .rd (.level l) :: s.events })

/-- 42_pulse_bit_decoder.md R100 row "the target", with the callers' completion actions of R103 (low phase), 41 R94 (U7),
R105 and R106 (U8) and R107 (U9). -/
def Obligations.SampleHitCompletesTheWait : Prop :=
  ∀ (s : State) (v : Environment),
    (s.env.nextRead = (.level .high, v) → s.eng.rbp = .lowph → (s.eng.upc = .u7 ∨ s.eng.upc = .u8) →
      exec .readLine s = .next { s with
        eng := { s.eng with lowcnt := s.eng.cnt, cnt := 0, rbp := .highph, wps := .sample }
        env := v, events := .rd (.level .high) :: s.events }) ∧
    (s.env.nextRead = (.level .high, v) → s.eng.rbp = .lowph → s.eng.upc = .u9 →
      exec .readLine s = .next { s with
        eng := { s.eng with cnt := 0, ph := .checksum, upc := .u10 }
        env := v, events := .rd (.level .high) :: s.events }) ∧
    (s.env.nextRead = (.level .low, v) → s.eng.rbp = .highph → s.eng.upc = .u7 →
      exec .readLine s = .next { s with
        eng := { s.eng with
          ph := .bitreading, bitidx := 0, upc := .u8, rbp := .lowph, wps := .sample, cnt := 0, lowcnt := 0 }
        env := v, events := .rd (.level .low) :: s.events }) ∧
    (s.env.nextRead = (.level .low, v) → s.eng.rbp = .highph → s.eng.upc = .u8 → s.eng.bitidx.toNat < 39 →
      exec .readLine s = .next { s with
        eng := { s.eng with
          frame := storeBit s.eng.frame s.eng.bitidx.toNat (decide (s.eng.lowcnt.toNat < s.eng.cnt.toNat))
          bitidx := s.eng.bitidx + 1, rbp := .lowph, wps := .sample, cnt := 0, lowcnt := 0 }
        env := v, events := .rd (.level .low) :: s.events }) ∧
    (s.env.nextRead = (.level .low, v) → s.eng.rbp = .highph → s.eng.upc = .u8 → s.eng.bitidx.toNat = 39 →
      exec .readLine s = .next { s with
        eng := { s.eng with
          frame := storeBit s.eng.frame 39 (decide (s.eng.lowcnt.toNat < s.eng.cnt.toNat))
          bitidx := 40, ph := .trailing, upc := .u9, rbp := .lowph, wps := .sample, cnt := 0, lowcnt := 0 }
        env := v, events := .rd (.level .low) :: s.events })

/-! ## The pulse-width bit decoder -/

/-- 42_pulse_bit_decoder.md R101, R102: a wait succeeds with `k` in 0..1000 when `k` samples miss and the next one shows
the target, after `k + 1` reads and `k` poll delays. Away from U7..U9 no caller takes the result and it stays in `CNT`
(log entry 11). -/
def Obligations.WaitPulseReturnsItsMisses : Prop :=
  ∀ (s : State) (l : Level) (k : Nat) (v : Environment), k ≤ 1000 →
    s.env.takeReads (k + 1) = (waitSamples l k, v) →
    exec (.waitPulse l) s = .next { s with
      eng := { s.eng with cnt := BitVec.ofNat 10 k, wps := .sample }.waitDone
      env := v, events := waitTrace l k ++ s.events }

/-- 42_pulse_bit_decoder.md R102: 1001 samples without the target abort with `Timeout` in the 1001st read, after 1000 poll
delays. -/
def Obligations.WaitPulseTimesOutAtItsLimit : Prop :=
  ∀ (s : State) (l : Level) (v : Environment),
    s.env.takeReads 1001 = (List.replicate 1001 (.level l.other), v) →
    exec (.waitPulse l) s = .next { s with
      eng := s.eng.fail .timeout, env := v
      events := .rd (.level l.other) :: missTrace l 1000 ++ s.events }

/-- 60_exceptions.md R145, 42_pulse_bit_decoder.md R100: an error on sample `k + 1` of a wait is `LineFault`, up to and with
the 1001st sample. -/
def Obligations.WaitPulseFaultIsNoTimeout : Prop :=
  ∀ (s : State) (l : Level) (k : Nat) (e : ErrImage) (v : Environment), k ≤ 1000 →
    s.env.takeReads (k + 1) = (List.replicate k (.level l.other) ++ [.err e], v) →
    exec (.waitPulse l) s = .next { s with
      eng := s.eng.fail (.lineFault e), env := v
      events := .rd (.err e) :: missTrace l k ++ s.events }

/-- 42_pulse_bit_decoder.md R102: whatever the environment answers, a wait ends, after at most 1001 reads and at most 1000
poll delays and no other request. -/
def Obligations.WaitPulseAlwaysEnds : Prop :=
  ∀ (s : State) (l : Level), ∃ (t : State) (new : List Event),
    exec (.waitPulse l) s = .next t ∧ t.events = new ++ s.events ∧
    (new.filter Event.isRead).length ≤ 1001 ∧
    (new.filter fun ev => !ev.isRead).length ≤ 1000 ∧
    ∀ ev ∈ new, ev.isRead = true ∨ ev = .dus 1

/-- 41_handshake.md R94, R95: at U7 the bit and both counts are discarded, whatever they are. -/
def Obligations.AcknowledgmentIsDiscarded : Prop :=
  ∀ (s : State) (p : Nat × Nat) (v : Environment), s.eng.upc = .u7 → p.1 ≤ 1000 → p.2 ≤ 1000 →
    s.env.takeReads (bitSamples p).length = (bitSamples p, v) →
    exec .readBit s = .next { s with
      eng := { s.eng with
        ph := .bitreading, bitidx := 0, upc := .u8, rbp := .lowph, wps := .sample, cnt := 0, lowcnt := 0 }
      env := v, events := bitTrace p ++ s.events }

/-- 42_pulse_bit_decoder.md R103 to R106: at U8 the stored bit is 1 iff the high-phase count strictly exceeds the low-phase
count; the 40th bit also ends the loop. -/
def Obligations.ReadBitStoresTheComparison : Prop :=
  ∀ (s : State) (p : Nat × Nat) (v : Environment), s.eng.upc = .u8 → s.eng.bitidx.toNat < 40 →
    p.1 ≤ 1000 → p.2 ≤ 1000 →
    s.env.takeReads (bitSamples p).length = (bitSamples p, v) →
    ∃ t, exec .readBit s = .next t ∧ t.eng.bitidx.toNat = s.eng.bitidx.toNat + 1 ∧
      t = { s with
        eng := { s.eng with
          frame := storeBit s.eng.frame s.eng.bitidx.toNat (decide (p.1 < p.2))
          bitidx := t.eng.bitidx, rbp := .lowph, wps := .sample, cnt := 0, lowcnt := 0
          ph := if s.eng.bitidx.toNat = 39 then .trailing else s.eng.ph
          upc := if s.eng.bitidx.toNat = 39 then .u9 else .u8 }
        env := v, events := bitTrace p ++ s.events }

/-- 42_pulse_bit_decoder.md R103: a low phase that never ends times out, and the second wait is not started. -/
def Obligations.ReadBitStopsAtItsFirstTimeout : Prop :=
  ∀ (s : State) (v : Environment),
    s.env.takeReads 1001 = (List.replicate 1001 (.level .low), v) →
    exec .readBit s = .next { s with
      eng := s.eng.fail .timeout, env := v
      events := .rd (.level .low) :: missTrace .high 1000 ++ s.events }

/-- 42_pulse_bit_decoder.md R106, 20_memory.md R42: bit `i` goes to bit `7 - (i mod 8)` of byte `i div 8` and no other bit
of the frame changes. -/
def Obligations.StoredBitChangesOnlyItsPlace : Prop :=
  ∀ (f : Frame) (i : Nat) (b : Bool), i < 40 →
    ∀ (k : Nat) (hk : k < 5) (j : Nat), j < 8 →
      ((storeBit f i b)[k]'hk).getLsbD j =
        if k = i / 8 ∧ j = 7 - i % 8 then b else (f[k]'hk).getLsbD j

/-- 42_pulse_bit_decoder.md R105, 20_memory.md R42: forty bit reads fill the frame, most significant bit first and byte 0
first, whatever the frame held. -/
def Obligations.BitLoopFillsTheFrame : Prop :=
  ∀ (s : State) (ps : List (Nat × Nat)) (v : Environment), ps.length = 40 →
    (∀ p ∈ ps, p.1 ≤ 1000 ∧ p.2 ≤ 1000) →
    s.env.takeReads (ps.flatMap bitSamples).length = (ps.flatMap bitSamples, v) →
    ∃ f : Frame, (∀ (i : Nat) (h : i < ps.length), frameBit f i = decide (ps[i].1 < ps[i].2)) ∧
      exec .bitLoop s = .next { s with
        eng := { s.eng with
          frame := f, bitidx := 40, rbp := .lowph, wps := .sample, cnt := 0, lowcnt := 0, ph := .trailing, upc := .u9 }
        env := v, events := bitsTrace ps ++ s.events }

/-- 42_pulse_bit_decoder.md R107: the trailing wait for HIGH, its count discarded. -/
def Obligations.TrailConsumesTheFinalLowPulse : Prop :=
  ∀ (s : State) (k : Nat) (v : Environment), k ≤ 1000 →
    s.env.takeReads (k + 1) = (waitSamples .high k, v) →
    exec .trail s = .next { s with
      eng := { s.eng with cnt := 0, rbp := .lowph, wps := .sample, ph := .checksum, upc := .u10 }
      env := v, events := waitTrace .high k ++ s.events }

/-- 42_pulse_bit_decoder.md R107, R108: a timeout in the trailing wait discards the whole frame, good checksum or not. -/
def Obligations.TrailTimeoutDiscardsTheFrame : Prop :=
  ∀ (s : State) (v : Environment),
    s.env.takeReads 1001 = (List.replicate 1001 (.level .low), v) →
    ∃ t, exec .trail s = .next t ∧ t.eng.ph = .failed ∧ t.eng.errcode = .timeout ∧ t.eng.lfinfo = none ∧
      t.eng.frame = Vector.replicate 5 0 ∧ t.eng.bitidx = 0 ∧ t.eng.hum = 0 ∧ t.eng.temp = 0 ∧ t.eng.upc = .u0 ∧
      t.eng.bound = s.eng.bound ∧ t.eng.cmdref = s.eng.cmdref ∧ t.env = v ∧
      t.turns = s.turns ∧ t.returned = s.returned ∧ t.held = s.held ∧ t.abandoned = s.abandoned ∧
      t.events = .rd (.level .low) :: missTrace .high 1000 ++ s.events

/-! ## The handshake -/

/-- 41_handshake.md R90: the six requests in order, then one bit read whose result is discarded. -/
def Obligations.HandshakeSendsTheStartSignal : Prop :=
  ∀ (s : State) (p : Nat × Nat) (v : Environment), p.1 ≤ 1000 → p.2 ≤ 1000 →
    s.env.rel.1 = .ok → s.env.rel.2.low.1 = .ok → s.env.rel.2.low.2.rel.1 = .ok →
    s.env.rel.2.low.2.rel.2.takeReads (bitSamples p).length = (bitSamples p, v) →
    exec .handshake s = .next { s with
      eng := { s.eng with
        ph := .bitreading, bitidx := 0, upc := .u8, rbp := .lowph, wps := .sample, cnt := 0, lowcnt := 0 }
      env := v
      events := bitTrace p ++ [.dus 40, .rel .ok, .dms 20, .low .ok, .dms 1, .rel .ok] ++ s.events }

/-- 41_handshake.md R97: a fault at U1, U3 or U5 aborts at once: no later event of the handshake is issued. -/
def Obligations.HandshakeFaultEndsItAtOnce : Prop :=
  ∀ (s : State) (e : ErrImage),
    (s.env.rel.1 = .err e → exec .handshake s = .next { s with
      eng := s.eng.fail (.lineFault e), env := s.env.rel.2, events := .rel (.err e) :: s.events }) ∧
    (s.env.rel.1 = .ok → s.env.rel.2.low.1 = .err e → exec .handshake s = .next { s with
      eng := s.eng.fail (.lineFault e), env := s.env.rel.2.low.2
      events := [.low (.err e), .dms 1, .rel .ok] ++ s.events }) ∧
    (s.env.rel.1 = .ok → s.env.rel.2.low.1 = .ok → s.env.rel.2.low.2.rel.1 = .err e →
      exec .handshake s = .next { s with
        eng := s.eng.fail (.lineFault e), env := s.env.rel.2.low.2.rel.2
        events := [.rel (.err e), .dms 20, .low .ok, .dms 1, .rel .ok] ++ s.events })

/-! ## The validator and the extractor -/

/-- 43_crc8_validator.md R115, R117: pass iff the exact sum of the four data bytes, modulo 256, is byte 4. -/
def Obligations.CrcCheckComparesTheTruncatedSum : Prop :=
  ∀ s : State,
    ((s.eng.frame[0].toNat + s.eng.frame[1].toNat + s.eng.frame[2].toNat + s.eng.frame[3].toNat) % 256 =
        s.eng.frame[4].toNat →
      exec .crcCheck s = .next { s with eng := { s.eng with upc := .u11 } }) ∧
    ((s.eng.frame[0].toNat + s.eng.frame[1].toNat + s.eng.frame[2].toNat + s.eng.frame[3].toNat) % 256 ≠
        s.eng.frame[4].toNat →
      exec .crcCheck s = .next { s with eng := s.eng.fail .crcMismatch })

/-- 44_field_extractor.md R120 to R122: the two fields in tenths, the temperature negated when bit 7 of byte 2 is set. -/
def Obligations.ExtractDecodesTheFields : Prop :=
  ∀ s : State, ∃ t, exec .extract s = .next t ∧
    t.eng.hum.toNat = s.eng.frame[0].toNat * 10 + s.eng.frame[1].toNat ∧
    t.eng.temp.toInt =
      (if s.eng.frame[2].getLsbD 7 then -1 else 1) *
        ((s.eng.frame[2].toNat % 128 * 10 + s.eng.frame[3].toNat : Nat) : Int) ∧
    t = { s with eng := { s.eng with
      hum := t.eng.hum, temp := t.eng.temp, frame := Vector.replicate 5 0, bitidx := 0, cnt := 0, lowcnt := 0
      rbp := .lowph, wps := .sample, ph := .done, upc := .u0 } }

/-- 44_field_extractor.md R121, R122, R123: the two fields of every frame, exact and in range. -/
def Obligations.FieldsAreExactAndInRange : Prop :=
  ∀ b0 b1 b2 b3 : Byte,
    (humidityTenths b0 b1).toNat = b0.toNat * 10 + b1.toNat ∧
    (temperatureTenths b2 b3).toInt =
      (if b2.getLsbD 7 then -1 else 1) * ((b2.toNat % 128 * 10 + b3.toNat : Nat) : Int) ∧
    (humidityTenths b0 b1).toNat ≤ 2805 ∧
    -1525 ≤ (temperatureTenths b2 b3).toInt ∧ (temperatureTenths b2 b3).toInt ≤ 1525

/-- 60_exceptions.md R147: what an abort writes, register by register. -/
def Obligations.AbortWritesTheErrorAndClearsTheRest : Prop :=
  ∀ (x : Err) (s : State), s.fail x = { s with eng := {
    bound := s.eng.bound, ph := .failed, upc := .u0, rbp := .lowph, wps := .sample, bitidx := 0
    frame := Vector.replicate 5 0, cnt := 0, lowcnt := 0
    errcode := match x with
      | .timeout => .timeout
      | .crcMismatch => .crc
      | .lineFault _ => .linefault
    lfinfo := match x with
      | .timeout => none
      | .crcMismatch => none
      | .lineFault e => some e
    hum := 0, temp := 0, cmdref := s.eng.cmdref } }

/-! ## The host register block -/

/-- 10_state.md R27: every bit of `STATUS`. -/
def Obligations.StatusShowsItsFields : Prop :=
  ∀ e : Engine,
    (e.readReg .status).getLsbD 0 = e.bound ∧
    ((e.readReg .status).getLsbD 1 = true ↔
      e.ph = .handshaking ∨ e.ph = .bitreading ∨ e.ph = .trailing ∨ e.ph = .checksum) ∧
    ((e.readReg .status).getLsbD 2 = true ↔ e.ph = .done) ∧
    ((e.readReg .status).getLsbD 3 = true ↔ e.ph = .failed) ∧
    (e.readReg .status).getLsbD 4 = e.cmdref ∧
    (e.readReg .status).extractLsb' 5 3 = 0#3 ∧
    (e.readReg .status).extractLsb' 8 3 = (match e.ph with
      | .idle => 0
      | .handshaking => 1
      | .bitreading => 2
      | .trailing => 3
      | .checksum => 4
      | .done => 5
      | .failed => 6 : BitVec 3) ∧
    (e.readReg .status).extractLsb' 11 5 = 0#5 ∧
    (e.readReg .status).extractLsb' 16 6 = e.bitidx ∧
    (e.readReg .status).extractLsb' 22 10 = 0#10

/-- 10_state.md R26, R28, R30, R31: `CTRL` reads 0; `ERR` is the code; `HUM` is zero-extended; `TEMP` sign-extended. -/
def Obligations.ResultRegistersReadTheirValues : Prop :=
  ∀ e : Engine,
    e.readReg .ctrl = 0 ∧
    (e.readReg .err).toNat = (match e.errcode with
      | .none => 0
      | .timeout => 1
      | .crc => 2
      | .linefault => 3) ∧
    (e.readReg .hum).toNat = e.hum.toNat ∧
    (e.readReg .temp).toInt = e.temp.toInt

/-- 10_state.md R29: `LFINFO` reads 0 when there is no value, else the value's image, within `E_WIDTH` bits. The invariant
says that a value held is one of `E`, of which there may be none (log entry 1). -/
def Obligations.LfinfoReadsTheImage : Prop :=
  ∀ s : State,
    (s.eng.lfinfo = none → s.eng.readReg .lfinfo = 0) ∧
    (∀ e, s.eng.lfinfo = some e → s.eng.readReg .lfinfo = e) ∧
    (s.Inv → ∀ k, Config.eWidth.val ≤ k → (s.eng.readReg .lfinfo).getLsbD k = false) ∧
    (∀ x y : Config.ErrorValue, Config.errorImage x = Config.errorImage y → x = y)

/-- 20_memory.md R46, 10_state.md R25: a read of each of the six registers, at its offset of the map, returns its value
and changes nothing of the engine, the environment or the event trace. -/
def Obligations.HostReadHasNoSideEffect : Prop :=
  ∀ (s : State) (r : HostReg) (off : Nat) (ts : List Turn),
    (r, off) ∈ ([(.ctrl, 0x00), (.status, 0x04), (.err, 0x08), (.lfinfo, 0x0C), (.hum, 0x10), (.temp, 0x14)] :
      List (HostReg × Nat)) →
    s.turns = .host (.read 4 off) :: ts →
    step s = .next { s with turns := ts, returned := .data off (s.eng.readReg r) :: s.returned }

/-- 20_memory.md R46, 10_state.md R25: a write to a register other than `CTRL` has no effect. -/
def Obligations.HostWriteElsewhereIsIgnored : Prop :=
  ∀ (s : State) (off : Nat) (v : Word) (ts : List Turn), off ∈ [0x04, 0x08, 0x0C, 0x10, 0x14] →
    s.turns = .host (.write 4 off v) :: ts → step s = .next { s with turns := ts }

/-- 20_memory.md R45: an access of another width, or at an offset that is no register's, is refused. -/
def Obligations.UndefinedHostAccessIsRefused : Prop :=
  ∀ (s : State) (bytes off : Nat) (v : Word) (ts : List Turn),
    (bytes ≠ 4 ∨ (off ≠ 0 ∧ off ≠ 4 ∧ off ≠ 8 ∧ off ≠ 12 ∧ off ≠ 16 ∧ off ≠ 20)) →
    (s.turns = .host (.read bytes off) :: ts → step s = .refused .hostAccess) ∧
    (s.turns = .host (.write bytes off v) :: ts → step s = .refused .hostAccess)

/-- 70_reset_and_hazards.md R160, R161, 10_state.md R35, 20_memory.md R54: a reset, at any time, gives every register its
reset value, abandons the request that is outstanding, if one is, issues no request, records no event and leaves the line
driver as it was. That a reset may fall on an outstanding request is shown by the turn `request` (log entry 6). -/
def Obligations.ResetOverridesEverything : Prop :=
  ∀ (s : State) (ts : List Turn), s.turns = .host .reset :: ts →
    step s = .next { s with turns := ts, held := none, abandoned := s.abandoned ++ s.held.toList, eng := {
      bound := false, ph := .idle, upc := .u0, rbp := .lowph, wps := .sample, bitidx := 0
      frame := Vector.replicate 5 0, cnt := 0, lowcnt := 0, errcode := .none, lfinfo := none, hum := 0, temp := 0
      cmdref := false } }

/-- 70_reset_and_hazards.md R161, 20_memory.md R54: the engine ignores the answer that comes to a request after a reset has
abandoned it: no register and no event. The line capability has carried the request out, so its answer is taken and the
driver's shadow follows it. When, if ever, it comes is open (log entry 6). -/
def Obligations.LateAnswerIsIgnored : Prop :=
  ∀ (s : State) (n : Nat) (ts : List Turn), s.turns = .lateAnswer n :: ts →
    (s.abandoned[n]? = none → step s = .next { s with turns := ts }) ∧
    (s.abandoned[n]? = some (.line .rel) → step s = .next { s with
      turns := ts, abandoned := s.abandoned.eraseIdx n
      env := { s.env.nextDrive.2 with ldrv := if s.env.nextDrive.1 = .ok then .released else .unknown } }) ∧
    (s.abandoned[n]? = some (.line .low) → step s = .next { s with
      turns := ts, abandoned := s.abandoned.eraseIdx n
      env := { s.env.nextDrive.2 with ldrv := if s.env.nextDrive.1 = .ok then .drivenLow else .unknown } }) ∧
    (s.abandoned[n]? = some (.line .rd) → step s = .next { s with
      turns := ts, abandoned := s.abandoned.eraseIdx n, env := s.env.nextRead.2 }) ∧
    (∀ d, s.abandoned[n]? = some (.delay d) → step s = .next { s with
      turns := ts, abandoned := s.abandoned.eraseIdx n })

/-- 10_state.md R35: after reset all six host registers read 0, and the engine accepts `CONSTRUCT` only. -/
def Obligations.AfterResetAllRegistersReadZero : Prop :=
  (∀ r : HostReg, State.reset.eng.readReg r = 0) ∧ State.reset.eng.mode = .unbound ∧
    State.reset.env.ldrv = .unknown

/-- 20_memory.md R53, R54, 40_host_commands.md R80: the host may use the line while `BOUND = 0` and the delay while
`BUSY = 0`, with no effect on the engine or its event trace; otherwise the model refuses (93 I13). -/
def Obligations.HostUsesTheCapabilitiesOnlyWhenFree : Prop :=
  ∀ (s : State) (r : LineReq) (d : DelayReq) (ts : List Turn),
    (s.turns = .host (.line r) :: ts → s.eng.bound = false → ∃ t, step s = .next t ∧
      t.eng = s.eng ∧ t.events = s.events ∧ t.turns = ts ∧ t.held = s.held ∧ t.abandoned = s.abandoned ∧
      (r = .rel → s.env.nextDrive.1 = .ok → t.env.ldrv = .released) ∧
      (r = .low → s.env.nextDrive.1 = .ok → t.env.ldrv = .drivenLow) ∧
      (r ≠ .rd → s.env.nextDrive.1 ≠ .ok → t.env.ldrv = .unknown) ∧
      (r = .rd → t.env.ldrv = s.env.ldrv)) ∧
    (s.turns = .host (.line r) :: ts → s.eng.bound = true → step s = .refused .lineNotFree) ∧
    (s.turns = .host (.delay d) :: ts → s.eng.busy = false →
      step s = .next { s with turns := ts, returned := .elapsed d :: s.returned }) ∧
    (s.turns = .host (.delay d) :: ts → s.eng.busy = true → step s = .refused .delayNotFree)

/-! ## A step runs the operation it stands at -/

/-- 10_state.md R26, 40_host_commands.md R80: a write to `CTRL` performs, in the same step, the command that the written
word decodes to. -/
def Obligations.StepRunsTheWrittenCommand : Prop :=
  ∀ (s : State) (v : Word) (ts : List Turn), s.turns = .host (.write 4 0 v) :: ts →
    ∃ i, decode ⟨32, v.toNat⟩ = .ok i ∧ step s = exec i { s with turns := ts }

/-- 10_state.md R13, R14: a micro-step performs the operation that the table gives the position, and at U0 nothing. `t` is
the state that the operation meets: an engine turn is used up, and `RUN` (30_encoding.md R72) stays listed until the
engine is at rest, where it is dropped (log entry 8). A request issued before is answered in the micro-step; before that, the
turn `request` issues the position's request, which the engine holds, one at most (20_memory.md R49, 30_encoding.md R75; log
entry 6). -/
def Obligations.StepRunsTheMicroProgram : Prop :=
  (∀ (s t : State),
    (s.turns = [] ∧ t = s) ∨ (∃ ts, s.turns = .engine :: ts ∧ t = { s with turns := ts }) ∨
    (∃ ts, s.turns = .run :: ts ∧ s.eng.upc ≠ .u0 ∧ t = s) ∨
    (∃ ts, s.turns = .run :: ts ∧ s.eng.upc = .u0 ∧ t = { s with turns := ts }) →
    (s.eng.upc = .u0 → step s = .next t) ∧
    (s.eng.upc = .u1 → step s = exec .setRelease { t with held := none }) ∧
    (s.eng.upc = .u2 → step s = exec (.delayMs 1) { t with held := none }) ∧
    (s.eng.upc = .u3 → step s = exec .setLow { t with held := none }) ∧
    (s.eng.upc = .u4 → step s = exec (.delayMs 20) { t with held := none }) ∧
    (s.eng.upc = .u5 → step s = exec .setRelease { t with held := none }) ∧
    (s.eng.upc = .u6 → step s = exec (.delayUs 40) { t with held := none }) ∧
    ((s.eng.upc = .u7 ∨ s.eng.upc = .u8 ∨ s.eng.upc = .u9) → s.eng.wps = .sample →
      step s = exec .readLine { t with held := none }) ∧
    ((s.eng.upc = .u7 ∨ s.eng.upc = .u8 ∨ s.eng.upc = .u9) → s.eng.wps = .delay →
      step s = exec (.delayUs 1) { t with held := none }) ∧
    (s.eng.upc = .u10 → step s = exec .crcCheck { t with held := none }) ∧
    (s.eng.upc = .u11 → step s = exec .extract { t with held := none })) ∧
  ∀ (s : State) (ts : List Turn), s.turns = .request :: ts →
    ∃ h, step s = .next { s with turns := ts, held := h } ∧
      (∀ r, s.held = some r → h = some r) ∧
      (s.held = none →
        ((s.eng.upc = .u0 ∨ s.eng.upc = .u10 ∨ s.eng.upc = .u11) → h = none) ∧
        ((s.eng.upc = .u1 ∨ s.eng.upc = .u5) → h = some (.line .rel)) ∧
        (s.eng.upc = .u2 → h = some (.delay ⟨.ms, 1⟩)) ∧
        (s.eng.upc = .u3 → h = some (.line .low)) ∧
        (s.eng.upc = .u4 → h = some (.delay ⟨.ms, 20⟩)) ∧
        (s.eng.upc = .u6 → h = some (.delay ⟨.us, 40⟩)) ∧
        ((s.eng.upc = .u7 ∨ s.eng.upc = .u8 ∨ s.eng.upc = .u9) → s.eng.wps = .sample → h = some (.line .rd)) ∧
        ((s.eng.upc = .u7 ∨ s.eng.upc = .u8 ∨ s.eng.upc = .u9) → s.eng.wps = .delay → h = some (.delay ⟨.us, 1⟩)))

/-- Log entries 9 and 10 (the model's own): the very next step performs the operation that the placed code word decodes
to, on the registers placed for it. -/
def Obligations.StepRunsThePlacedWord : Prop :=
  ∀ (s : State) (nbits w : Nat) (i : Instr), decodeTableWord nbits w = some i →
    step (s.withFetchWord nbits w) = exec i { s with eng := s.eng.placedFor i }

/-! ## Rules of the whole machine -/

/-- The state after reset satisfies the invariant (10_state.md R33, R35). -/
def Obligations.InvariantHoldsAtReset : Prop := State.reset.Inv

/-- 10_state.md R33: every step keeps the invariant. -/
def Obligations.EveryStepKeepsTheInvariant : Prop :=
  ∀ s t : State, s.Inv → step s = .next t → t.Inv

/-- 10_state.md R12: the only transitions of `PH`, each with what causes it: the host's turn, or the answer to the
request at the position (41_handshake.md R94, 42_pulse_bit_decoder.md R102, R105, R107), or the checksum. -/
def Obligations.PhaseChangesOnlyAsTabled : Prop :=
  ∀ s t : State, s.Inv → step s = .next t → t.eng.ph ≠ s.eng.ph →
    (∃ ts, s.turns = .host .reset :: ts ∧ t.eng.ph = .idle) ∨
    (∃ ts v, s.turns = .host (.write 4 0 v) :: ts ∧ v.toNat % 4 = 1 ∧ s.eng.bound = false ∧
      (s.eng.ph = .done ∨ s.eng.ph = .failed) ∧ t.eng.ph = .idle) ∨
    (∃ ts v, s.turns = .host (.write 4 0 v) :: ts ∧ v.toNat % 4 = 2 ∧ s.eng.bound = true ∧
      (s.eng.ph = .idle ∨ s.eng.ph = .done ∨ s.eng.ph = .failed) ∧ t.eng.ph = .handshaking) ∨
    (s.eng.ph = .handshaking ∧ s.eng.upc = .u7 ∧ s.eng.rbp = .highph ∧
      t.events = .rd (.level .low) :: s.events ∧ t.eng.ph = .bitreading) ∨
    (s.eng.ph = .bitreading ∧ s.eng.upc = .u8 ∧ s.eng.rbp = .highph ∧ s.eng.bitidx = 39 ∧
      t.events = .rd (.level .low) :: s.events ∧ t.eng.bitidx = 40 ∧ t.eng.ph = .trailing) ∨
    (s.eng.ph = .trailing ∧ s.eng.upc = .u9 ∧ t.events = .rd (.level .high) :: s.events ∧ t.eng.ph = .checksum) ∨
    (s.eng.ph = .checksum ∧ s.eng.upc = .u11 ∧ checksum s.eng.frame = s.eng.frame[4] ∧ t.eng.ph = .done ∧
      t.eng.hum = humidityTenths s.eng.frame[0] s.eng.frame[1] ∧
      t.eng.temp = temperatureTenths s.eng.frame[2] s.eng.frame[3]) ∨
    (s.eng.ph = .checksum ∧ s.eng.upc = .u10 ∧ checksum s.eng.frame ≠ s.eng.frame[4] ∧ t.eng.ph = .failed ∧
      t.eng.errcode = .crc) ∨
    ((s.eng.ph = .handshaking ∨ s.eng.ph = .bitreading ∨ s.eng.ph = .trailing) ∧ t.eng.ph = .failed ∧
      ((t.eng.errcode = .timeout ∧ s.eng.cnt.toNat = 1000 ∧
          t.events = .rd (.level s.eng.target.other) :: s.events) ∨
        ∃ e, t.eng.errcode = .linefault ∧ t.eng.lfinfo = some e ∧
          (t.events = .rel (.err e) :: s.events ∨ t.events = .low (.err e) :: s.events ∨
            t.events = .rd (.err e) :: s.events)))

/-- 20_memory.md R49, 10_state.md R11, R13, 30_encoding.md R76: a step issues at most one event, only while `BOUND = 1` and
BUSY, and only an event that belongs to the sequencer's position. -/
def Obligations.EventsBelongToTheirPositions : Prop :=
  ∀ s t : State, s.Inv → step s = .next t →
    t.events = s.events ∨
    ∃ ev, t.events = ev :: s.events ∧ s.eng.bound = true ∧ s.eng.busy = true ∧ ev.issuedAt s.eng.upc = true

/-- 10_state.md R11: `BOUND` is written only by an accepted `CONSTRUCT`, an accepted `RELEASE` and reset. -/
def Obligations.BoundIsWrittenOnlyByOwnershipCommands : Prop :=
  ∀ s t : State, s.Inv → step s = .next t → t.eng.bound ≠ s.eng.bound →
    (∃ ts, s.turns = .host .reset :: ts ∧ t.eng.bound = false) ∨
    (∃ ts v, s.turns = .host (.write 4 0 v) :: ts ∧ v.toNat % 4 = 1 ∧ t.eng.bound = true) ∨
    (∃ ts v, s.turns = .host (.write 4 0 v) :: ts ∧ v.toNat % 4 = 3 ∧ s.eng.busy = false ∧ t.eng.bound = false)

/-- 20_memory.md R52: while BUSY, no step of the host but reset changes anything of the measurement: only `CMDREF` and what
came back to the host. -/
def Obligations.HostCannotDisturbAMeasurement : Prop :=
  ∀ (s t : State) (a : HostAct) (ts : List Turn), s.Inv → s.eng.busy = true → a ≠ .reset →
    s.turns = .host a :: ts → step s = .next t →
    t = { s with eng := { s.eng with cmdref := t.eng.cmdref }, turns := ts, returned := t.returned }

/-- 10_state.md R22: a `Measurement` is immutable: while `PH` stays DONE, no step changes `HUM` or `TEMP`. -/
def Obligations.MeasurementIsImmutable : Prop :=
  ∀ s t : State, s.Inv → step s = .next t → s.eng.ph = .done → t.eng.ph = .done →
    t.eng.hum = s.eng.hum ∧ t.eng.temp = s.eng.temp

/-- 40_host_commands.md R89: a measurement left to run ends, DONE or FAILED, after at most 166089 events (and the two
micro-steps that issue none). It rests on R89's proviso that every request is answered, which the model takes of the
environment (45_line_and_delay_primitives.md R135; log entry 5, unsafe). -/
def Obligations.EveryMeasurementTerminates : Prop :=
  ∀ s : State, s.Inv → s.eng.busy = true → s.turns = [] →
    ∃ (k : Nat) (t : State), k ≤ 166091 ∧ core.run k s = .next t ∧ t.eng.upc = .u0 ∧
      (t.eng.ph = .done ∨ t.eng.ph = .failed) ∧ t.events.length ≤ s.events.length + 166089

/-- 40_host_commands.md R89: a measurement that succeeds has issued at least 89 events. -/
def Obligations.SuccessTakesAtLeast89Events : Prop :=
  ∀ (s t : State) (k : Nat), s.Inv → s.eng.upc = .u1 → s.turns = [] →
    core.run k s = .next t → t.eng.ph = .done → s.events.length + 89 ≤ t.events.length

/-! ## The operations performed whole are their micro-steps -/

/-- 42_pulse_bit_decoder.md R100, 92_eei_decisions.md D13: `WAIT_PULSE` performed whole ends in the state that its
micro-steps reach. Its first request may be outstanding already; the micro-steps answer it. -/
def Obligations.WaitPulseIsItsMicroSteps : Prop :=
  ∀ s : State, s.turns = [] → (s.eng.upc = .u7 ∨ s.eng.upc = .u8 ∨ s.eng.upc = .u9) → s.eng.wps = .sample →
    s.eng.cnt = 0 → ∃ k ≤ 2001, core.run k s = exec (.waitPulse s.eng.target) { s with held := none }

/-- 42_pulse_bit_decoder.md R103, 92_eei_decisions.md D13: the same of `READ_BIT`. -/
def Obligations.ReadBitIsItsMicroSteps : Prop :=
  ∀ s : State, s.turns = [] → (s.eng.upc = .u7 ∨ s.eng.upc = .u8) → s.eng.rbp = .lowph → s.eng.wps = .sample →
    s.eng.cnt = 0 → ∃ k ≤ 4002, core.run k s = exec .readBit { s with held := none }

/-- 42_pulse_bit_decoder.md R105, 92_eei_decisions.md D13: the same of `BIT_LOOP`. -/
def Obligations.BitLoopIsItsMicroSteps : Prop :=
  ∀ s : State, s.turns = [] → s.eng.upc = .u8 → s.eng.rbp = .lowph → s.eng.wps = .sample → s.eng.cnt = 0 →
    s.eng.bitidx = 0 → ∃ k, core.run k s = exec .bitLoop { s with held := none }

/-- 42_pulse_bit_decoder.md R107, 92_eei_decisions.md D13: the same of `TRAIL`. -/
def Obligations.TrailIsItsMicroSteps : Prop :=
  ∀ s : State, s.turns = [] → s.eng.upc = .u9 → s.eng.rbp = .lowph → s.eng.wps = .sample → s.eng.cnt = 0 →
    ∃ k, core.run k s = exec .trail { s with held := none }

/-- 41_handshake.md R90, 92_eei_decisions.md D13: the same of `HANDSHAKE`. -/
def Obligations.HandshakeIsItsMicroSteps : Prop :=
  ∀ s : State, s.turns = [] → s.eng.upc = .u1 → ∃ k, core.run k s = exec .handshake { s with held := none }

/-- The whole of an accepted `MEASURE` (40_host_commands.md R86), with a line that answers the start signal, an
acknowledgment, the 40 symbols of a frame `f` and a trailing low pulse: DONE with the fields of `f` if its checksum byte is
right, and otherwise FAILED with `CrcMismatch` and no result (43_crc8_validator.md R118). -/
def Obligations.MeasurementDeliversTheFrame : Prop :=
  ∀ (s : State) (f : Frame) (a : Nat × Nat) (ps : List (Nat × Nat)) (n : Nat) (ds : List DriveAns) (rs : List ReadAns),
    s.turns = [] → s.eng.bound = true → s.eng.busy = false → a.1 ≤ 1000 → a.2 ≤ 1000 → n ≤ 1000 →
    ps.length = 40 → (∀ p ∈ ps, p.1 ≤ 1000 ∧ p.2 ≤ 1000) →
    (∀ (i : Nat) (h : i < ps.length), frameBit f i = decide (ps[i].1 < ps[i].2)) →
    s.env.drives = .ok :: .ok :: .ok :: ds →
    s.env.reads = bitSamples a ++ ps.flatMap bitSamples ++ waitSamples .high n ++ rs →
    ∃ (m t : State) (k : Nat), exec .measure s = .next m ∧ core.run k m = .next t ∧ t.eng.upc = .u0 ∧
      t.env.reads = rs ∧ t.env.drives = ds ∧ t.env.ldrv = .released ∧
      ((f[0].toNat + f[1].toNat + f[2].toNat + f[3].toNat) % 256 = f[4].toNat →
        t.eng.ph = .done ∧ t.eng.errcode = .none ∧ t.eng.hum.toNat = f[0].toNat * 10 + f[1].toNat ∧
        t.eng.temp.toInt =
          (if f[2].getLsbD 7 then -1 else 1) * ((f[2].toNat % 128 * 10 + f[3].toNat : Nat) : Int)) ∧
      ((f[0].toNat + f[1].toNat + f[2].toNat + f[3].toNat) % 256 ≠ f[4].toNat →
        t.eng.ph = .failed ∧ t.eng.errcode = .crc ∧ t.eng.hum = 0 ∧ t.eng.temp = 0)

/-! ## Encoding -/

/-- 30_encoding.md R71: decoding the code word of a well-formed operation gives it back. -/
def Obligations.DecodeOfEncodeIsTheOperation : Prop :=
  ∀ i : Instr, i.wf = true → decode (encode i) = .ok i

/-- 30_encoding.md R65, R71, spec/opcode_table.json: a code word decodes to an operation exactly when it matches that
operation's row. -/
def Obligations.DecoderFollowsTheOpcodeTable : Prop :=
  ∀ c : CodeWord, c.bits < 2 ^ c.width →
    (∀ i, decode c = .ok i → i.wf = true ∧ ∃ r ∈ opcodeTable, r.mnemonic = i.mnemonic ∧ r.matches c = true) ∧
    (∀ r ∈ opcodeTable, r.matches c = true → ∃ i, decode c = .ok i ∧ i.mnemonic = r.mnemonic)

/-- 30_encoding.md R71, R72, opcode_table.json: words written out from the spec's encodings. -/
def Obligations.KnownWordsDecode : Prop :=
  decode ⟨32, 0x00000002⟩ = .ok .measure ∧ decode ⟨32, 0xFFFFFFFD⟩ = .ok .construct ∧
  decode ⟨10, 0b0011101000⟩ = .ok (.delayUs 40) ∧ decode ⟨10, 0b0100010100⟩ = .ok (.delayMs 20) ∧
  decode ⟨5, 0b01011⟩ = .ok (.waitPulse .high) ∧ decode ⟨4, 0b1010⟩ = .ok .crcCheck ∧
  decode ⟨4, 0b1100⟩ = .error .reservedNumber
end

