-- ==== Sys2Proof/Laws/Fields.lean ====
section
/-! SUPPORT. The arithmetic of the frame: one stored bit, the checksum and the two fields as numbers. -/

namespace Sys2Proof.Machine

/-- Replacing a bit of a byte changes that bit only (42_pulse_bit_decoder.md R106). -/
theorem setBit_getLsbD (v : Byte) (k : Nat) (hk : k < 8) (b : Bool) (j : Nat) (hj : j < 8) :
    (setBit v k b).getLsbD j = if j = k then b else v.getLsbD j := by
  unfold setBit
  cases b
  · simp only [Bool.false_eq_true, if_false]
    rw [BitVec.getLsbD_and, BitVec.getLsbD_not, BitVec.getLsbD_shiftLeft, BitVec.getLsbD_one]
    by_cases h : j = k
    · subst h; simp [hj]
    · by_cases h2 : j < k
      · simp [h, h2, hj]
      · have : j - k ≠ 0 := by omega
        simp [h, h2, hj, this]
  · simp only [if_true]
    rw [BitVec.getLsbD_or, BitVec.getLsbD_shiftLeft, BitVec.getLsbD_one]
    by_cases h : j = k
    · subst h; simp [hj]
    · by_cases h2 : j < k
      · simp [h, h2, hj]
      · have : j - k ≠ 0 := by omega
        simp [h, h2, hj, this]

/-- The checksum test on exact numbers (43_crc8_validator.md R115, R117). -/
theorem checksumOk_iff (f : Frame) : checksumOk f = true ↔
    (f[0].toNat + f[1].toNat + f[2].toNat + f[3].toNat) % 256 = f[4].toNat := by
  simp only [checksumOk, checksum, beq_iff_eq]
  rw [← BitVec.toNat_inj]
  simp [BitVec.toNat_add]

/-- The humidity does not wrap (44_field_extractor.md R121). -/
theorem humidityTenths_toNat (b0 b1 : Byte) : (humidityTenths b0 b1).toNat = b0.toNat * 10 + b1.toNat := by
  have := b0.isLt
  have := b1.isLt
  simp only [humidityTenths]
  bv_omega

/-- The magnitude of the temperature does not wrap (44_field_extractor.md R122). -/
theorem temperatureMagnitude_toNat (b2 b3 : Byte) :
    (temperatureMagnitude b2 b3).toNat = b2.toNat % 128 * 10 + b3.toNat := by
  have := b2.isLt
  have := b3.isLt
  simp only [temperatureMagnitude, BitVec.toNat_add, BitVec.toNat_mul, BitVec.toNat_setWidth, BitVec.extractLsb'_toNat]
  simp
  omega

end Sys2Proof.Machine
end

