-- ==== Sys2Proof/Laws/State.lean ====
section
/-! SUPPORT. One lemma per field per update of the engine's registers and of the state, each true by `rfl`, so that no
proof unfolds a record update. -/

namespace Sys2Proof.Machine

/-! ### `Engine.clearWork` -/

@[simp] theorem Engine.clearWork_bound (e : Engine) : (e.clearWork).bound = e.bound := rfl
@[simp] theorem Engine.clearWork_ph (e : Engine) : (e.clearWork).ph = e.ph := rfl
@[simp] theorem Engine.clearWork_upc (e : Engine) : (e.clearWork).upc = e.upc := rfl
@[simp] theorem Engine.clearWork_rbp (e : Engine) : (e.clearWork).rbp = .lowph := rfl
@[simp] theorem Engine.clearWork_wps (e : Engine) : (e.clearWork).wps = .sample := rfl
@[simp] theorem Engine.clearWork_bitidx (e : Engine) : (e.clearWork).bitidx = 0 := rfl
@[simp] theorem Engine.clearWork_frame (e : Engine) : (e.clearWork).frame = Vector.replicate 5 0 := rfl
@[simp] theorem Engine.clearWork_cnt (e : Engine) : (e.clearWork).cnt = 0 := rfl
@[simp] theorem Engine.clearWork_lowcnt (e : Engine) : (e.clearWork).lowcnt = 0 := rfl
@[simp] theorem Engine.clearWork_errcode (e : Engine) : (e.clearWork).errcode = e.errcode := rfl
@[simp] theorem Engine.clearWork_lfinfo (e : Engine) : (e.clearWork).lfinfo = e.lfinfo := rfl
@[simp] theorem Engine.clearWork_hum (e : Engine) : (e.clearWork).hum = e.hum := rfl
@[simp] theorem Engine.clearWork_temp (e : Engine) : (e.clearWork).temp = e.temp := rfl
@[simp] theorem Engine.clearWork_cmdref (e : Engine) : (e.clearWork).cmdref = e.cmdref := rfl

/-! ### `Engine.clearResults` -/

@[simp] theorem Engine.clearResults_bound (e : Engine) : (e.clearResults).bound = e.bound := rfl
@[simp] theorem Engine.clearResults_ph (e : Engine) : (e.clearResults).ph = e.ph := rfl
@[simp] theorem Engine.clearResults_upc (e : Engine) : (e.clearResults).upc = e.upc := rfl
@[simp] theorem Engine.clearResults_rbp (e : Engine) : (e.clearResults).rbp = e.rbp := rfl
@[simp] theorem Engine.clearResults_wps (e : Engine) : (e.clearResults).wps = e.wps := rfl
@[simp] theorem Engine.clearResults_bitidx (e : Engine) : (e.clearResults).bitidx = e.bitidx := rfl
@[simp] theorem Engine.clearResults_frame (e : Engine) : (e.clearResults).frame = e.frame := rfl
@[simp] theorem Engine.clearResults_cnt (e : Engine) : (e.clearResults).cnt = e.cnt := rfl
@[simp] theorem Engine.clearResults_lowcnt (e : Engine) : (e.clearResults).lowcnt = e.lowcnt := rfl
@[simp] theorem Engine.clearResults_errcode (e : Engine) : (e.clearResults).errcode = .none := rfl
@[simp] theorem Engine.clearResults_lfinfo (e : Engine) : (e.clearResults).lfinfo = none := rfl
@[simp] theorem Engine.clearResults_hum (e : Engine) : (e.clearResults).hum = 0 := rfl
@[simp] theorem Engine.clearResults_temp (e : Engine) : (e.clearResults).temp = 0 := rfl
@[simp] theorem Engine.clearResults_cmdref (e : Engine) : (e.clearResults).cmdref = e.cmdref := rfl

/-! ### `Engine.fail` -/

@[simp] theorem Engine.fail_bound (x : Err) (e : Engine) : (e.fail x).bound = e.bound := rfl
@[simp] theorem Engine.fail_ph (x : Err) (e : Engine) : (e.fail x).ph = .failed := rfl
@[simp] theorem Engine.fail_upc (x : Err) (e : Engine) : (e.fail x).upc = .u0 := rfl
@[simp] theorem Engine.fail_rbp (x : Err) (e : Engine) : (e.fail x).rbp = .lowph := rfl
@[simp] theorem Engine.fail_wps (x : Err) (e : Engine) : (e.fail x).wps = .sample := rfl
@[simp] theorem Engine.fail_bitidx (x : Err) (e : Engine) : (e.fail x).bitidx = 0 := rfl
@[simp] theorem Engine.fail_frame (x : Err) (e : Engine) : (e.fail x).frame = Vector.replicate 5 0 := rfl
@[simp] theorem Engine.fail_cnt (x : Err) (e : Engine) : (e.fail x).cnt = 0 := rfl
@[simp] theorem Engine.fail_lowcnt (x : Err) (e : Engine) : (e.fail x).lowcnt = 0 := rfl
@[simp] theorem Engine.fail_errcode (x : Err) (e : Engine) : (e.fail x).errcode = x.code := rfl
@[simp] theorem Engine.fail_lfinfo (x : Err) (e : Engine) : (e.fail x).lfinfo = x.info := rfl
@[simp] theorem Engine.fail_hum (x : Err) (e : Engine) : (e.fail x).hum = 0 := rfl
@[simp] theorem Engine.fail_temp (x : Err) (e : Engine) : (e.fail x).temp = 0 := rfl
@[simp] theorem Engine.fail_cmdref (x : Err) (e : Engine) : (e.fail x).cmdref = e.cmdref := rfl

/-! ### `Engine.refuse` -/

@[simp] theorem Engine.refuse_bound (e : Engine) : (e.refuse).bound = e.bound := rfl
@[simp] theorem Engine.refuse_ph (e : Engine) : (e.refuse).ph = e.ph := rfl
@[simp] theorem Engine.refuse_upc (e : Engine) : (e.refuse).upc = e.upc := rfl
@[simp] theorem Engine.refuse_rbp (e : Engine) : (e.refuse).rbp = e.rbp := rfl
@[simp] theorem Engine.refuse_wps (e : Engine) : (e.refuse).wps = e.wps := rfl
@[simp] theorem Engine.refuse_bitidx (e : Engine) : (e.refuse).bitidx = e.bitidx := rfl
@[simp] theorem Engine.refuse_frame (e : Engine) : (e.refuse).frame = e.frame := rfl
@[simp] theorem Engine.refuse_cnt (e : Engine) : (e.refuse).cnt = e.cnt := rfl
@[simp] theorem Engine.refuse_lowcnt (e : Engine) : (e.refuse).lowcnt = e.lowcnt := rfl
@[simp] theorem Engine.refuse_errcode (e : Engine) : (e.refuse).errcode = e.errcode := rfl
@[simp] theorem Engine.refuse_lfinfo (e : Engine) : (e.refuse).lfinfo = e.lfinfo := rfl
@[simp] theorem Engine.refuse_hum (e : Engine) : (e.refuse).hum = e.hum := rfl
@[simp] theorem Engine.refuse_temp (e : Engine) : (e.refuse).temp = e.temp := rfl
@[simp] theorem Engine.refuse_cmdref (e : Engine) : (e.refuse).cmdref = true := rfl

/-! ### `Engine.beginBit` -/

@[simp] theorem Engine.beginBit_bound (e : Engine) : (e.beginBit).bound = e.bound := rfl
@[simp] theorem Engine.beginBit_ph (e : Engine) : (e.beginBit).ph = e.ph := rfl
@[simp] theorem Engine.beginBit_upc (e : Engine) : (e.beginBit).upc = e.upc := rfl
@[simp] theorem Engine.beginBit_rbp (e : Engine) : (e.beginBit).rbp = .lowph := rfl
@[simp] theorem Engine.beginBit_wps (e : Engine) : (e.beginBit).wps = .sample := rfl
@[simp] theorem Engine.beginBit_bitidx (e : Engine) : (e.beginBit).bitidx = e.bitidx := rfl
@[simp] theorem Engine.beginBit_frame (e : Engine) : (e.beginBit).frame = e.frame := rfl
@[simp] theorem Engine.beginBit_cnt (e : Engine) : (e.beginBit).cnt = 0 := rfl
@[simp] theorem Engine.beginBit_lowcnt (e : Engine) : (e.beginBit).lowcnt = e.lowcnt := rfl
@[simp] theorem Engine.beginBit_errcode (e : Engine) : (e.beginBit).errcode = e.errcode := rfl
@[simp] theorem Engine.beginBit_lfinfo (e : Engine) : (e.beginBit).lfinfo = e.lfinfo := rfl
@[simp] theorem Engine.beginBit_hum (e : Engine) : (e.beginBit).hum = e.hum := rfl
@[simp] theorem Engine.beginBit_temp (e : Engine) : (e.beginBit).temp = e.temp := rfl
@[simp] theorem Engine.beginBit_cmdref (e : Engine) : (e.beginBit).cmdref = e.cmdref := rfl

/-! ### `Engine.endBit` -/

@[simp] theorem Engine.endBit_bound (e : Engine) : (e.endBit).bound = e.bound := rfl
@[simp] theorem Engine.endBit_ph (e : Engine) : (e.endBit).ph = e.ph := rfl
@[simp] theorem Engine.endBit_upc (e : Engine) : (e.endBit).upc = e.upc := rfl
@[simp] theorem Engine.endBit_rbp (e : Engine) : (e.endBit).rbp = .lowph := rfl
@[simp] theorem Engine.endBit_wps (e : Engine) : (e.endBit).wps = .sample := rfl
@[simp] theorem Engine.endBit_bitidx (e : Engine) : (e.endBit).bitidx = e.bitidx := rfl
@[simp] theorem Engine.endBit_frame (e : Engine) : (e.endBit).frame = e.frame := rfl
@[simp] theorem Engine.endBit_cnt (e : Engine) : (e.endBit).cnt = 0 := rfl
@[simp] theorem Engine.endBit_lowcnt (e : Engine) : (e.endBit).lowcnt = 0 := rfl
@[simp] theorem Engine.endBit_errcode (e : Engine) : (e.endBit).errcode = e.errcode := rfl
@[simp] theorem Engine.endBit_lfinfo (e : Engine) : (e.endBit).lfinfo = e.lfinfo := rfl
@[simp] theorem Engine.endBit_hum (e : Engine) : (e.endBit).hum = e.hum := rfl
@[simp] theorem Engine.endBit_temp (e : Engine) : (e.endBit).temp = e.temp := rfl
@[simp] theorem Engine.endBit_cmdref (e : Engine) : (e.endBit).cmdref = e.cmdref := rfl

/-! ### `Engine.lowDone` -/

@[simp] theorem Engine.lowDone_bound (e : Engine) : (e.lowDone).bound = e.bound := rfl
@[simp] theorem Engine.lowDone_ph (e : Engine) : (e.lowDone).ph = e.ph := rfl
@[simp] theorem Engine.lowDone_upc (e : Engine) : (e.lowDone).upc = e.upc := rfl
@[simp] theorem Engine.lowDone_rbp (e : Engine) : (e.lowDone).rbp = .highph := rfl
@[simp] theorem Engine.lowDone_wps (e : Engine) : (e.lowDone).wps = .sample := rfl
@[simp] theorem Engine.lowDone_bitidx (e : Engine) : (e.lowDone).bitidx = e.bitidx := rfl
@[simp] theorem Engine.lowDone_frame (e : Engine) : (e.lowDone).frame = e.frame := rfl
@[simp] theorem Engine.lowDone_cnt (e : Engine) : (e.lowDone).cnt = 0 := rfl
@[simp] theorem Engine.lowDone_lowcnt (e : Engine) : (e.lowDone).lowcnt = e.cnt := rfl
@[simp] theorem Engine.lowDone_errcode (e : Engine) : (e.lowDone).errcode = e.errcode := rfl
@[simp] theorem Engine.lowDone_lfinfo (e : Engine) : (e.lowDone).lfinfo = e.lfinfo := rfl
@[simp] theorem Engine.lowDone_hum (e : Engine) : (e.lowDone).hum = e.hum := rfl
@[simp] theorem Engine.lowDone_temp (e : Engine) : (e.lowDone).temp = e.temp := rfl
@[simp] theorem Engine.lowDone_cmdref (e : Engine) : (e.lowDone).cmdref = e.cmdref := rfl

/-! ### `Engine.ackDone` -/

@[simp] theorem Engine.ackDone_bound (e : Engine) : (e.ackDone).bound = e.bound := rfl
@[simp] theorem Engine.ackDone_ph (e : Engine) : (e.ackDone).ph = .bitreading := rfl
@[simp] theorem Engine.ackDone_upc (e : Engine) : (e.ackDone).upc = .u8 := rfl
@[simp] theorem Engine.ackDone_rbp (e : Engine) : (e.ackDone).rbp = .lowph := rfl
@[simp] theorem Engine.ackDone_wps (e : Engine) : (e.ackDone).wps = .sample := rfl
@[simp] theorem Engine.ackDone_bitidx (e : Engine) : (e.ackDone).bitidx = 0 := rfl
@[simp] theorem Engine.ackDone_frame (e : Engine) : (e.ackDone).frame = e.frame := rfl
@[simp] theorem Engine.ackDone_cnt (e : Engine) : (e.ackDone).cnt = 0 := rfl
@[simp] theorem Engine.ackDone_lowcnt (e : Engine) : (e.ackDone).lowcnt = 0 := rfl
@[simp] theorem Engine.ackDone_errcode (e : Engine) : (e.ackDone).errcode = e.errcode := rfl
@[simp] theorem Engine.ackDone_lfinfo (e : Engine) : (e.ackDone).lfinfo = e.lfinfo := rfl
@[simp] theorem Engine.ackDone_hum (e : Engine) : (e.ackDone).hum = e.hum := rfl
@[simp] theorem Engine.ackDone_temp (e : Engine) : (e.ackDone).temp = e.temp := rfl
@[simp] theorem Engine.ackDone_cmdref (e : Engine) : (e.ackDone).cmdref = e.cmdref := rfl

/-! ### `Engine.trailDone` -/

@[simp] theorem Engine.trailDone_bound (e : Engine) : (e.trailDone).bound = e.bound := rfl
@[simp] theorem Engine.trailDone_ph (e : Engine) : (e.trailDone).ph = .checksum := rfl
@[simp] theorem Engine.trailDone_upc (e : Engine) : (e.trailDone).upc = .u10 := rfl
@[simp] theorem Engine.trailDone_rbp (e : Engine) : (e.trailDone).rbp = e.rbp := rfl
@[simp] theorem Engine.trailDone_wps (e : Engine) : (e.trailDone).wps = e.wps := rfl
@[simp] theorem Engine.trailDone_bitidx (e : Engine) : (e.trailDone).bitidx = e.bitidx := rfl
@[simp] theorem Engine.trailDone_frame (e : Engine) : (e.trailDone).frame = e.frame := rfl
@[simp] theorem Engine.trailDone_cnt (e : Engine) : (e.trailDone).cnt = 0 := rfl
@[simp] theorem Engine.trailDone_lowcnt (e : Engine) : (e.trailDone).lowcnt = e.lowcnt := rfl
@[simp] theorem Engine.trailDone_errcode (e : Engine) : (e.trailDone).errcode = e.errcode := rfl
@[simp] theorem Engine.trailDone_lfinfo (e : Engine) : (e.trailDone).lfinfo = e.lfinfo := rfl
@[simp] theorem Engine.trailDone_hum (e : Engine) : (e.trailDone).hum = e.hum := rfl
@[simp] theorem Engine.trailDone_temp (e : Engine) : (e.trailDone).temp = e.temp := rfl
@[simp] theorem Engine.trailDone_cmdref (e : Engine) : (e.trailDone).cmdref = e.cmdref := rfl

/-! ### `Engine.countMiss` -/

@[simp] theorem Engine.countMiss_bound (e : Engine) : (e.countMiss).bound = e.bound := rfl
@[simp] theorem Engine.countMiss_ph (e : Engine) : (e.countMiss).ph = e.ph := rfl
@[simp] theorem Engine.countMiss_upc (e : Engine) : (e.countMiss).upc = e.upc := rfl
@[simp] theorem Engine.countMiss_rbp (e : Engine) : (e.countMiss).rbp = e.rbp := rfl
@[simp] theorem Engine.countMiss_wps (e : Engine) : (e.countMiss).wps = .delay := rfl
@[simp] theorem Engine.countMiss_bitidx (e : Engine) : (e.countMiss).bitidx = e.bitidx := rfl
@[simp] theorem Engine.countMiss_frame (e : Engine) : (e.countMiss).frame = e.frame := rfl
@[simp] theorem Engine.countMiss_cnt (e : Engine) : (e.countMiss).cnt = e.cnt + 1 := rfl
@[simp] theorem Engine.countMiss_lowcnt (e : Engine) : (e.countMiss).lowcnt = e.lowcnt := rfl
@[simp] theorem Engine.countMiss_errcode (e : Engine) : (e.countMiss).errcode = e.errcode := rfl
@[simp] theorem Engine.countMiss_lfinfo (e : Engine) : (e.countMiss).lfinfo = e.lfinfo := rfl
@[simp] theorem Engine.countMiss_hum (e : Engine) : (e.countMiss).hum = e.hum := rfl
@[simp] theorem Engine.countMiss_temp (e : Engine) : (e.countMiss).temp = e.temp := rfl
@[simp] theorem Engine.countMiss_cmdref (e : Engine) : (e.countMiss).cmdref = e.cmdref := rfl

/-! ### `Engine.construct` -/

@[simp] theorem Engine.construct_bound (e : Engine) : (e.construct).bound = true := rfl
@[simp] theorem Engine.construct_ph (e : Engine) : (e.construct).ph = .idle := rfl
@[simp] theorem Engine.construct_upc (e : Engine) : (e.construct).upc = e.upc := rfl
@[simp] theorem Engine.construct_rbp (e : Engine) : (e.construct).rbp = e.rbp := rfl
@[simp] theorem Engine.construct_wps (e : Engine) : (e.construct).wps = e.wps := rfl
@[simp] theorem Engine.construct_bitidx (e : Engine) : (e.construct).bitidx = e.bitidx := rfl
@[simp] theorem Engine.construct_frame (e : Engine) : (e.construct).frame = e.frame := rfl
@[simp] theorem Engine.construct_cnt (e : Engine) : (e.construct).cnt = e.cnt := rfl
@[simp] theorem Engine.construct_lowcnt (e : Engine) : (e.construct).lowcnt = e.lowcnt := rfl
@[simp] theorem Engine.construct_errcode (e : Engine) : (e.construct).errcode = .none := rfl
@[simp] theorem Engine.construct_lfinfo (e : Engine) : (e.construct).lfinfo = none := rfl
@[simp] theorem Engine.construct_hum (e : Engine) : (e.construct).hum = 0 := rfl
@[simp] theorem Engine.construct_temp (e : Engine) : (e.construct).temp = 0 := rfl
@[simp] theorem Engine.construct_cmdref (e : Engine) : (e.construct).cmdref = false := rfl

/-! ### `Engine.measure` -/

@[simp] theorem Engine.measure_bound (e : Engine) : (e.measure).bound = e.bound := rfl
@[simp] theorem Engine.measure_ph (e : Engine) : (e.measure).ph = .handshaking := rfl
@[simp] theorem Engine.measure_upc (e : Engine) : (e.measure).upc = .u1 := rfl
@[simp] theorem Engine.measure_rbp (e : Engine) : (e.measure).rbp = .lowph := rfl
@[simp] theorem Engine.measure_wps (e : Engine) : (e.measure).wps = .sample := rfl
@[simp] theorem Engine.measure_bitidx (e : Engine) : (e.measure).bitidx = 0 := rfl
@[simp] theorem Engine.measure_frame (e : Engine) : (e.measure).frame = Vector.replicate 5 0 := rfl
@[simp] theorem Engine.measure_cnt (e : Engine) : (e.measure).cnt = 0 := rfl
@[simp] theorem Engine.measure_lowcnt (e : Engine) : (e.measure).lowcnt = 0 := rfl
@[simp] theorem Engine.measure_errcode (e : Engine) : (e.measure).errcode = .none := rfl
@[simp] theorem Engine.measure_lfinfo (e : Engine) : (e.measure).lfinfo = none := rfl
@[simp] theorem Engine.measure_hum (e : Engine) : (e.measure).hum = 0 := rfl
@[simp] theorem Engine.measure_temp (e : Engine) : (e.measure).temp = 0 := rfl
@[simp] theorem Engine.measure_cmdref (e : Engine) : (e.measure).cmdref = false := rfl

/-! ### `Engine.release` -/

@[simp] theorem Engine.release_bound (e : Engine) : (e.release).bound = false := rfl
@[simp] theorem Engine.release_ph (e : Engine) : (e.release).ph = e.ph := rfl
@[simp] theorem Engine.release_upc (e : Engine) : (e.release).upc = e.upc := rfl
@[simp] theorem Engine.release_rbp (e : Engine) : (e.release).rbp = e.rbp := rfl
@[simp] theorem Engine.release_wps (e : Engine) : (e.release).wps = e.wps := rfl
@[simp] theorem Engine.release_bitidx (e : Engine) : (e.release).bitidx = e.bitidx := rfl
@[simp] theorem Engine.release_frame (e : Engine) : (e.release).frame = e.frame := rfl
@[simp] theorem Engine.release_cnt (e : Engine) : (e.release).cnt = e.cnt := rfl
@[simp] theorem Engine.release_lowcnt (e : Engine) : (e.release).lowcnt = e.lowcnt := rfl
@[simp] theorem Engine.release_errcode (e : Engine) : (e.release).errcode = e.errcode := rfl
@[simp] theorem Engine.release_lfinfo (e : Engine) : (e.release).lfinfo = e.lfinfo := rfl
@[simp] theorem Engine.release_hum (e : Engine) : (e.release).hum = e.hum := rfl
@[simp] theorem Engine.release_temp (e : Engine) : (e.release).temp = e.temp := rfl
@[simp] theorem Engine.release_cmdref (e : Engine) : (e.release).cmdref = false := rfl

/-! ### `Engine.extract` -/

@[simp] theorem Engine.extract_bound (e : Engine) : (e.extract).bound = e.bound := rfl
@[simp] theorem Engine.extract_ph (e : Engine) : (e.extract).ph = .done := rfl
@[simp] theorem Engine.extract_upc (e : Engine) : (e.extract).upc = .u0 := rfl
@[simp] theorem Engine.extract_rbp (e : Engine) : (e.extract).rbp = .lowph := rfl
@[simp] theorem Engine.extract_wps (e : Engine) : (e.extract).wps = .sample := rfl
@[simp] theorem Engine.extract_bitidx (e : Engine) : (e.extract).bitidx = 0 := rfl
@[simp] theorem Engine.extract_frame (e : Engine) : (e.extract).frame = Vector.replicate 5 0 := rfl
@[simp] theorem Engine.extract_cnt (e : Engine) : (e.extract).cnt = 0 := rfl
@[simp] theorem Engine.extract_lowcnt (e : Engine) : (e.extract).lowcnt = 0 := rfl
@[simp] theorem Engine.extract_errcode (e : Engine) : (e.extract).errcode = e.errcode := rfl
@[simp] theorem Engine.extract_lfinfo (e : Engine) : (e.extract).lfinfo = e.lfinfo := rfl
@[simp] theorem Engine.extract_hum (e : Engine) : (e.extract).hum = humidityTenths e.frame[0] e.frame[1] := rfl
@[simp] theorem Engine.extract_temp (e : Engine) : (e.extract).temp = temperatureTenths e.frame[2] e.frame[3] := rfl
@[simp] theorem Engine.extract_cmdref (e : Engine) : (e.extract).cmdref = e.cmdref := rfl

/-! ### `State.fail` -/

@[simp] theorem State.fail_eng (x : Err) (s : State) : (s.fail x).eng = s.eng.fail x := rfl
@[simp] theorem State.fail_env (x : Err) (s : State) : (s.fail x).env = s.env := rfl
@[simp] theorem State.fail_held (x : Err) (s : State) : (s.fail x).held = s.held := rfl
@[simp] theorem State.fail_abandoned (x : Err) (s : State) : (s.fail x).abandoned = s.abandoned := rfl
@[simp] theorem State.fail_turns (x : Err) (s : State) : (s.fail x).turns = s.turns := rfl
@[simp] theorem State.fail_events (x : Err) (s : State) : (s.fail x).events = s.events := rfl
@[simp] theorem State.fail_returned (x : Err) (s : State) : (s.fail x).returned = s.returned := rfl

/-! ### `State.refuse` -/

@[simp] theorem State.refuse_eng (s : State) : s.refuse.eng = s.eng.refuse := rfl
@[simp] theorem State.refuse_env (s : State) : s.refuse.env = s.env := rfl
@[simp] theorem State.refuse_held (s : State) : s.refuse.held = s.held := rfl
@[simp] theorem State.refuse_abandoned (s : State) : s.refuse.abandoned = s.abandoned := rfl
@[simp] theorem State.refuse_turns (s : State) : s.refuse.turns = s.turns := rfl
@[simp] theorem State.refuse_events (s : State) : s.refuse.events = s.events := rfl
@[simp] theorem State.refuse_returned (s : State) : s.refuse.returned = s.returned := rfl

/-! ### `State.proceed` -/

@[simp] theorem State.proceed_eng (s : State) : s.proceed.eng = s.eng.proceed := rfl
@[simp] theorem State.proceed_env (s : State) : s.proceed.env = s.env := rfl
@[simp] theorem State.proceed_held (s : State) : s.proceed.held = s.held := rfl
@[simp] theorem State.proceed_abandoned (s : State) : s.proceed.abandoned = s.abandoned := rfl
@[simp] theorem State.proceed_turns (s : State) : s.proceed.turns = s.turns := rfl
@[simp] theorem State.proceed_events (s : State) : s.proceed.events = s.events := rfl
@[simp] theorem State.proceed_returned (s : State) : s.proceed.returned = s.returned := rfl

/-! ### `State.waitDone` -/

@[simp] theorem State.waitDone_eng (s : State) : s.waitDone.eng = s.eng.waitDone := rfl
@[simp] theorem State.waitDone_env (s : State) : s.waitDone.env = s.env := rfl
@[simp] theorem State.waitDone_held (s : State) : s.waitDone.held = s.held := rfl
@[simp] theorem State.waitDone_abandoned (s : State) : s.waitDone.abandoned = s.abandoned := rfl
@[simp] theorem State.waitDone_turns (s : State) : s.waitDone.turns = s.turns := rfl
@[simp] theorem State.waitDone_events (s : State) : s.waitDone.events = s.events := rfl
@[simp] theorem State.waitDone_returned (s : State) : s.waitDone.returned = s.returned := rfl

/-! ### `State.answered` -/

@[simp] theorem State.answered_eng (s : State) : s.answered.eng = s.eng := rfl
@[simp] theorem State.answered_env (s : State) : s.answered.env = s.env := rfl
@[simp] theorem State.answered_held (s : State) : s.answered.held = none := rfl
@[simp] theorem State.answered_abandoned (s : State) : s.answered.abandoned = s.abandoned := rfl
@[simp] theorem State.answered_turns (s : State) : s.answered.turns = s.turns := rfl
@[simp] theorem State.answered_events (s : State) : s.answered.events = s.events := rfl
@[simp] theorem State.answered_returned (s : State) : s.answered.returned = s.returned := rfl

/-! ### `State.abandon` -/

@[simp] theorem State.abandon_eng (s : State) : s.abandon.eng = s.eng := rfl
@[simp] theorem State.abandon_env (s : State) : s.abandon.env = s.env := rfl
@[simp] theorem State.abandon_held (s : State) : s.abandon.held = none := rfl
@[simp] theorem State.abandon_abandoned (s : State) : s.abandon.abandoned = s.abandoned ++ s.held.toList := rfl
@[simp] theorem State.abandon_turns (s : State) : s.abandon.turns = s.turns := rfl
@[simp] theorem State.abandon_events (s : State) : s.abandon.events = s.events := rfl
@[simp] theorem State.abandon_returned (s : State) : s.abandon.returned = s.returned := rfl

/-! ### `State.applyReset` -/

@[simp] theorem State.applyReset_eng (s : State) : s.applyReset.eng = Engine.reset := rfl
@[simp] theorem State.applyReset_env (s : State) : s.applyReset.env = s.env := rfl
@[simp] theorem State.applyReset_held (s : State) : s.applyReset.held = none := rfl
@[simp] theorem State.applyReset_abandoned (s : State) :
    s.applyReset.abandoned = s.abandoned ++ s.held.toList := rfl
@[simp] theorem State.applyReset_turns (s : State) : s.applyReset.turns = s.turns := rfl
@[simp] theorem State.applyReset_events (s : State) : s.applyReset.events = s.events := rfl
@[simp] theorem State.applyReset_returned (s : State) : s.applyReset.returned = s.returned := rfl

/-! ### `State.give` -/

@[simp] theorem State.give_eng (r : HostReturn) (s : State) : (s.give r).eng = s.eng := rfl
@[simp] theorem State.give_env (r : HostReturn) (s : State) : (s.give r).env = s.env := rfl
@[simp] theorem State.give_held (r : HostReturn) (s : State) : (s.give r).held = s.held := rfl
@[simp] theorem State.give_abandoned (r : HostReturn) (s : State) : (s.give r).abandoned = s.abandoned := rfl
@[simp] theorem State.give_turns (r : HostReturn) (s : State) : (s.give r).turns = s.turns := rfl
@[simp] theorem State.give_events (r : HostReturn) (s : State) : (s.give r).events = s.events := rfl
@[simp] theorem State.give_returned (r : HostReturn) (s : State) : (s.give r).returned = r :: s.returned := rfl

/-! ### `requestUs` -/

@[simp] theorem requestUs_eng (n : Nat) (s : State) : (requestUs n s).eng = s.eng := rfl
@[simp] theorem requestUs_env (n : Nat) (s : State) : (requestUs n s).env = s.env := rfl
@[simp] theorem requestUs_held (n : Nat) (s : State) : (requestUs n s).held = s.held := rfl
@[simp] theorem requestUs_abandoned (n : Nat) (s : State) : (requestUs n s).abandoned = s.abandoned := rfl
@[simp] theorem requestUs_turns (n : Nat) (s : State) : (requestUs n s).turns = s.turns := rfl
@[simp] theorem requestUs_events (n : Nat) (s : State) : (requestUs n s).events = .dus n :: s.events := rfl
@[simp] theorem requestUs_returned (n : Nat) (s : State) : (requestUs n s).returned = s.returned := rfl

/-! ### `requestMs` -/

@[simp] theorem requestMs_eng (n : Nat) (s : State) : (requestMs n s).eng = s.eng := rfl
@[simp] theorem requestMs_env (n : Nat) (s : State) : (requestMs n s).env = s.env := rfl
@[simp] theorem requestMs_held (n : Nat) (s : State) : (requestMs n s).held = s.held := rfl
@[simp] theorem requestMs_abandoned (n : Nat) (s : State) : (requestMs n s).abandoned = s.abandoned := rfl
@[simp] theorem requestMs_turns (n : Nat) (s : State) : (requestMs n s).turns = s.turns := rfl
@[simp] theorem requestMs_events (n : Nat) (s : State) : (requestMs n s).events = .dms n :: s.events := rfl
@[simp] theorem requestMs_returned (n : Nat) (s : State) : (requestMs n s).returned = s.returned := rfl

/-! ### `pollDelay` -/

@[simp] theorem pollDelay_eng (s : State) : (pollDelay s).eng = { s.eng with wps := .sample } := rfl
@[simp] theorem pollDelay_env (s : State) : (pollDelay s).env = s.env := rfl
@[simp] theorem pollDelay_held (s : State) : (pollDelay s).held = s.held := rfl
@[simp] theorem pollDelay_abandoned (s : State) : (pollDelay s).abandoned = s.abandoned := rfl
@[simp] theorem pollDelay_turns (s : State) : (pollDelay s).turns = s.turns := rfl
@[simp] theorem pollDelay_events (s : State) : (pollDelay s).events = .dus 1 :: s.events := rfl
@[simp] theorem pollDelay_returned (s : State) : (pollDelay s).returned = s.returned := rfl

/-! ### `delayUs` -/

@[simp] theorem delayUs_eng (n : Nat) (s : State) : (delayUs n s).eng = s.eng.afterUs := rfl
@[simp] theorem delayUs_env (n : Nat) (s : State) : (delayUs n s).env = s.env := rfl
@[simp] theorem delayUs_held (n : Nat) (s : State) : (delayUs n s).held = s.held := rfl
@[simp] theorem delayUs_abandoned (n : Nat) (s : State) : (delayUs n s).abandoned = s.abandoned := rfl
@[simp] theorem delayUs_turns (n : Nat) (s : State) : (delayUs n s).turns = s.turns := rfl
@[simp] theorem delayUs_events (n : Nat) (s : State) : (delayUs n s).events = .dus n :: s.events := rfl
@[simp] theorem delayUs_returned (n : Nat) (s : State) : (delayUs n s).returned = s.returned := rfl

/-! ### `delayMs` -/

@[simp] theorem delayMs_eng (n : Nat) (s : State) : (delayMs n s).eng = s.eng.proceed := rfl
@[simp] theorem delayMs_env (n : Nat) (s : State) : (delayMs n s).env = s.env := rfl
@[simp] theorem delayMs_held (n : Nat) (s : State) : (delayMs n s).held = s.held := rfl
@[simp] theorem delayMs_abandoned (n : Nat) (s : State) : (delayMs n s).abandoned = s.abandoned := rfl
@[simp] theorem delayMs_turns (n : Nat) (s : State) : (delayMs n s).turns = s.turns := rfl
@[simp] theorem delayMs_events (n : Nat) (s : State) : (delayMs n s).events = .dms n :: s.events := rfl
@[simp] theorem delayMs_returned (n : Nat) (s : State) : (delayMs n s).returned = s.returned := rfl

/-! ### `lineRelease_snd` -/

@[simp] theorem lineRelease_snd_eng (s : State) : (lineRelease s).2.eng = s.eng := rfl
@[simp] theorem lineRelease_snd_env (s : State) : (lineRelease s).2.env = { s.env.nextDrive.2 with ldrv := s.env.nextDrive.1.driver .released } := rfl
@[simp] theorem lineRelease_snd_held (s : State) : (lineRelease s).2.held = s.held := rfl
@[simp] theorem lineRelease_snd_abandoned (s : State) : (lineRelease s).2.abandoned = s.abandoned := rfl
@[simp] theorem lineRelease_snd_turns (s : State) : (lineRelease s).2.turns = s.turns := rfl
@[simp] theorem lineRelease_snd_events (s : State) : (lineRelease s).2.events = .rel s.env.nextDrive.1 :: s.events := rfl
@[simp] theorem lineRelease_snd_returned (s : State) : (lineRelease s).2.returned = s.returned := rfl

/-! ### `lineLow_snd` -/

@[simp] theorem lineLow_snd_eng (s : State) : (lineLow s).2.eng = s.eng := rfl
@[simp] theorem lineLow_snd_env (s : State) : (lineLow s).2.env = { s.env.nextDrive.2 with ldrv := s.env.nextDrive.1.driver .drivenLow } := rfl
@[simp] theorem lineLow_snd_held (s : State) : (lineLow s).2.held = s.held := rfl
@[simp] theorem lineLow_snd_abandoned (s : State) : (lineLow s).2.abandoned = s.abandoned := rfl
@[simp] theorem lineLow_snd_turns (s : State) : (lineLow s).2.turns = s.turns := rfl
@[simp] theorem lineLow_snd_events (s : State) : (lineLow s).2.events = .low s.env.nextDrive.1 :: s.events := rfl
@[simp] theorem lineLow_snd_returned (s : State) : (lineLow s).2.returned = s.returned := rfl

/-! ### `lineRead_snd` -/

@[simp] theorem lineRead_snd_eng (s : State) : (lineRead s).2.eng = s.eng := rfl
@[simp] theorem lineRead_snd_env (s : State) : (lineRead s).2.env = s.env.nextRead.2 := rfl
@[simp] theorem lineRead_snd_held (s : State) : (lineRead s).2.held = s.held := rfl
@[simp] theorem lineRead_snd_abandoned (s : State) : (lineRead s).2.abandoned = s.abandoned := rfl
@[simp] theorem lineRead_snd_turns (s : State) : (lineRead s).2.turns = s.turns := rfl
@[simp] theorem lineRead_snd_events (s : State) : (lineRead s).2.events = .rd s.env.nextRead.1 :: s.events := rfl
@[simp] theorem lineRead_snd_returned (s : State) : (lineRead s).2.returned = s.returned := rfl

/-! ### Answers -/

@[simp] theorem lineRelease_fst (s : State) : (lineRelease s).1 = s.env.nextDrive.1 := rfl
@[simp] theorem lineLow_fst (s : State) : (lineLow s).1 = s.env.nextDrive.1 := rfl
@[simp] theorem lineRead_fst (s : State) : (lineRead s).1 = s.env.nextRead.1 := rfl
@[simp] theorem Environment.rel_fst (v : Environment) : v.rel.1 = v.nextDrive.1 := rfl
@[simp] theorem Environment.low_fst (v : Environment) : v.low.1 = v.nextDrive.1 := rfl
@[simp] theorem DriveAns.driver_ok (d : LineDriver) : DriveAns.ok.driver d = d := rfl
@[simp] theorem DriveAns.driver_err (d : LineDriver) (e : ErrImage) : (DriveAns.err e).driver d = .unknown := rfl
@[simp] theorem Flow.final_ok {α : Type} (a : α) (s : State) : (Flow.ok a s).final = s := rfl
@[simp] theorem Flow.final_failed {α : Type} (s : State) : (Flow.failed s : Flow α).final = s := rfl
@[simp] theorem Flow.andThen_ok {α β : Type} (a : α) (s : State) (k : α → State → Flow β) :
    (Flow.ok a s).andThen k = k a s := rfl
@[simp] theorem Flow.andThen_failed {α β : Type} (s : State) (k : α → State → Flow β) :
    (Flow.failed s : Flow α).andThen k = .failed s := rfl

end Sys2Proof.Machine
end

