-- ==== Sys2Proof/Laws/Ops.lean ====
section
/-! SUPPORT. What each shared operation can do, said once: the environment's answers, the sample of a pulse-wait, the
continuations, and one inversion lemma for a micro-step of the engine. -/

namespace Sys2Proof.Machine

/-! ## The abort -/

/-- An abort keeps nothing of the registers but `BOUND` and `CMDREF` (60_exceptions.md R147). -/
theorem Engine.fail_congr {e e' : Engine} (x : Err) (hb : e.bound = e'.bound) (hc : e.cmdref = e'.cmdref) :
    e.fail x = e'.fail x := by
  simp only [Engine.fail, Engine.clearWork, hb, hc]

theorem Err.code_ne_none (x : Err) : x.code ≠ .none := by cases x <;> simp [Err.code]

theorem Err.code_linefault_iff (x : Err) : x.code = .linefault ↔ x.info ≠ none := by
  cases x <;> simp [Err.code, Err.info]

/-! ## Levels and counts -/

@[simp] theorem Level.other_ne (l : Level) : l.other ≠ l := by cases l <;> simp [Level.other]

theorem Level.eq_other_of_ne {l m : Level} (h : l ≠ m) : l = m.other := by
  cases l <;> cases m <;> simp_all [Level.other]

theorem decidedBit_eq (high low : Count) : decidedBit high low = decide (low.toNat < high.toNat) := by
  simp only [decidedBit, BitVec.lt_def]

theorem Engine.polling_iff (e : Engine) : e.polling = true ↔ e.upc = .u7 ∨ e.upc = .u8 ∨ e.upc = .u9 := by
  unfold Engine.polling; cases e.upc <;> simp

theorem Engine.busy_iff (e : Engine) :
    e.busy = true ↔ e.ph = .handshaking ∨ e.ph = .bitreading ∨ e.ph = .trailing ∨ e.ph = .checksum := by
  unfold Engine.busy; cases e.ph <;> simp

/-! ## The environment -/

@[simp] theorem Environment.nextRead_ldrv (v : Environment) : v.nextRead.2.ldrv = v.ldrv := by
  unfold Environment.nextRead; split <;> (try split) <;> rfl

@[simp] theorem Environment.nextRead_drives (v : Environment) : v.nextRead.2.drives = v.drives := by
  unfold Environment.nextRead; split <;> (try split) <;> rfl

@[simp] theorem Environment.nextDrive_ldrv (v : Environment) : v.nextDrive.2.ldrv = v.ldrv := by
  unfold Environment.nextDrive; split <;> rfl

@[simp] theorem Environment.nextDrive_reads (v : Environment) : v.nextDrive.2.reads = v.reads := by
  unfold Environment.nextDrive; split <;> rfl

/-- A value of `E` is determined by its image: the mapping is injective (10_state.md R29). -/
theorem errorImage_injective (x y : Config.ErrorValue) (h : Config.errorImage x = Config.errorImage y) : x = y := by
  have hw : Config.eWidth.val ≤ 32 := by have := Config.eWidth.isLt; omega
  have hp : 2 ^ Config.eWidth.val ≤ 2 ^ 32 := Nat.pow_le_pow_right (by omega) hw
  have hx := x.val.isLt
  have hy := y.val.isLt
  have hn := congrArg BitVec.toNat h
  simp only [Config.errorImage, BitVec.toNat_setWidth] at hn
  rw [Nat.mod_eq_of_lt (by omega), Nat.mod_eq_of_lt (by omega)] at hn
  exact Subtype.ext (BitVec.eq_of_toNat_eq hn)

/-- The image of a value of `E` has no bit at or above `E_WIDTH` (10_state.md R29). -/
theorem imageFits_high {e : ErrImage} (h : imageFits e) (k : Nat) (hk : Config.eWidth.val ≤ k) :
    e.getLsbD k = false := by
  obtain ⟨x, rfl⟩ := h
  simp only [Config.errorImage, BitVec.getLsbD_setWidth, BitVec.getLsbD_of_ge _ _ hk, Bool.and_false]

/-- Whatever gives it, an answer to a read fits, and leaves a list that fits. -/
theorem Environment.nextRead_fits {v : Environment} (h : ∀ a ∈ v.reads, a.Fits) :
    v.nextRead.1.Fits ∧ ∀ a ∈ v.nextRead.2.reads, a.Fits := by
  unfold Environment.nextRead
  split
  · rename_i a as heq; rw [heq] at h
    exact ⟨h a (by simp), fun b hb => h b (by simp [hb])⟩
  · rename_i heq
    split
    · exact ⟨trivial, by simp [heq]⟩
    · refine ⟨?_, by simp [heq]⟩
      show (freeRead v.draws).Fits
      unfold freeRead
      split
      · rename_i x _; exact ⟨x, rfl⟩
      · trivial

/-- Whatever gives it, an answer to a drive request fits, and leaves a list that fits. -/
theorem Environment.nextDrive_fits {v : Environment} (h : ∀ a ∈ v.drives, a.Fits) :
    v.nextDrive.1.Fits ∧ ∀ a ∈ v.nextDrive.2.drives, a.Fits := by
  unfold Environment.nextDrive
  split
  · rename_i a as heq; rw [heq] at h
    exact ⟨h a (by simp), fun b hb => h b (by simp [hb])⟩
  · rename_i heq
    refine ⟨?_, by simp [heq]⟩
    show (freeDrive v.draws).Fits
    unfold freeDrive
    split
    · rename_i x _; exact ⟨x, rfl⟩
    · trivial

@[simp] theorem Environment.takeReads_zero (v : Environment) : v.takeReads 0 = ([], v) := rfl

theorem Environment.takeReads_succ (n : Nat) (v : Environment) :
    v.takeReads (n + 1) = (v.nextRead.1 :: (v.nextRead.2.takeReads n).1, (v.nextRead.2.takeReads n).2) := rfl

/-- Taking the first answer apart. -/
theorem Environment.takeReads_cons {n : Nat} {v w : Environment} {a : ReadAns} {as : List ReadAns}
    (h : v.takeReads (n + 1) = (a :: as, w)) : v.nextRead.1 = a ∧ v.nextRead.2.takeReads n = (as, w) := by
  rw [takeReads_succ] at h
  simp only [Prod.mk.injEq, List.cons.injEq] at h
  exact ⟨h.1.1, Prod.ext h.1.2 h.2⟩

/-- Taking `m + n` answers is taking `m` and then `n`. -/
theorem Environment.takeReads_append {m n : Nat} {v w : Environment} {as bs : List ReadAns} (hm : as.length = m)
    (h : v.takeReads (m + n) = (as ++ bs, w)) : ∃ u, v.takeReads m = (as, u) ∧ u.takeReads n = (bs, w) := by
  induction m generalizing v as with
  | zero =>
    cases as with
    | nil => exact ⟨v, rfl, by simpa using h⟩
    | cons => simp at hm
  | succ m ih =>
    cases as with
    | nil => simp at hm
    | cons a as =>
      rw [show m + 1 + n = (m + n) + 1 by omega] at h
      obtain ⟨h1, h2⟩ := takeReads_cons h
      obtain ⟨u, hu1, hu2⟩ := ih (by simpa using hm) h2
      refine ⟨u, ?_, hu2⟩
      rw [takeReads_succ, h1, hu1]

/-- Listed answers are the ones taken. -/
theorem Environment.takeReads_listed (as rest : List ReadAns) (v : Environment) (h : v.reads = as ++ rest) :
    v.takeReads as.length = (as, { v with reads := rest }) := by
  induction as generalizing v with
  | nil => cases v; simp_all
  | cons a as ih =>
    have h1 : v.nextRead = (a, { v with reads := as ++ rest }) := by
      unfold Environment.nextRead; rw [h]; rfl
    rw [List.length_cons, takeReads_succ, h1, ih _ rfl]

/-! ## The sample of a pulse-wait (42_pulse_bit_decoder.md R100) -/

theorem pollSample_hit {l : Level} {s : State} (h : s.env.nextRead.1 = .level l) :
    pollSample l s = .hit (lineRead s).2 := by
  simp [pollSample, h]

theorem pollSample_miss {l : Level} {s : State} (h : s.env.nextRead.1 = .level l.other)
    (hc : s.eng.cnt.toNat < 1000) :
    pollSample l s = .miss { (lineRead s).2 with eng := s.eng.countMiss } := by
  simp [pollSample, h, hc]

theorem pollSample_timeout {l : Level} {s : State} (h : s.env.nextRead.1 = .level l.other)
    (hc : 1000 ≤ s.eng.cnt.toNat) : pollSample l s = .failed ((lineRead s).2.fail .timeout) := by
  simp [pollSample, h, Nat.not_lt.mpr hc]

theorem pollSample_err {l : Level} {s : State} {e : ErrImage} (h : s.env.nextRead.1 = .err e) :
    pollSample l s = .failed ((lineRead s).2.fail (.lineFault e)) := by
  simp [pollSample, h]

/-- Every sample is one of the four rows of the table in 42_pulse_bit_decoder.md R100. -/
theorem pollSample_cases (l : Level) (s : State) :
    (s.env.nextRead.1 = .level l ∧ pollSample l s = .hit (lineRead s).2) ∨
    (s.env.nextRead.1 = .level l.other ∧ s.eng.cnt.toNat < 1000 ∧
      pollSample l s = .miss { (lineRead s).2 with eng := s.eng.countMiss }) ∨
    (s.env.nextRead.1 = .level l.other ∧ 1000 ≤ s.eng.cnt.toNat ∧
      pollSample l s = .failed ((lineRead s).2.fail .timeout)) ∨
    (∃ e, s.env.nextRead.1 = .err e ∧ pollSample l s = .failed ((lineRead s).2.fail (.lineFault e))) := by
  cases h : s.env.nextRead.1 with
  | err e => exact .inr (.inr (.inr ⟨e, rfl, pollSample_err h⟩))
  | level m =>
    by_cases hm : m = l
    · subst hm; exact .inl ⟨rfl, pollSample_hit h⟩
    · have hm := Level.eq_other_of_ne hm
      subst hm
      by_cases hc : s.eng.cnt.toNat < 1000
      · exact .inr (.inl ⟨rfl, hc, pollSample_miss h hc⟩)
      · exact .inr (.inr (.inl ⟨rfl, by omega, pollSample_timeout h (by omega)⟩))

/-! ## Continuations -/

/-- A primitive's continuation touches only the position, the sub-position and `CNT`. -/
theorem Engine.proceed_frame (e : Engine) :
    e.proceed = { e with upc := e.proceed.upc, rbp := e.proceed.rbp, wps := e.proceed.wps, cnt := e.proceed.cnt } := by
  unfold Engine.proceed; cases e.upc <;> rfl

theorem Engine.bitStored_last {e : Engine} (b : Bool) (h : e.bitidx.toNat = 39) :
    e.bitStored b = { e.endBit with
      frame := storeBit e.frame 39 b, bitidx := 40, ph := .trailing, upc := .u9 } := by
  have h1 : e.bitidx + 1 = 40 := by bv_omega
  simp only [Engine.bitStored, h, h1, ↓reduceIte]

theorem Engine.bitStored_more {e : Engine} (b : Bool) (h : e.bitidx.toNat ≠ 39) :
    e.bitStored b = { e.endBit with
      frame := storeBit e.frame e.bitidx.toNat b, bitidx := e.bitidx + 1 } := by
  have h1 : ¬ (e.bitidx.toNat + 1 = Config.nBits) := by simp only [Config.nBits]; omega
  simp only [Engine.bitStored, if_neg h1]

/-! ## One micro-step -/

/-- The micro-steps of the engine, as 10_state.md R13 and 42_pulse_bit_decoder.md R100 table them: the registers before,
the event issued if any, the registers after. -/
inductive Engine.Micro (e : Engine) : Option Event → Engine → Prop where
  | rel : e.upc = .u1 ∨ e.upc = .u5 → Micro e (some (.rel .ok)) e.proceed
  | relErr (x : ErrImage) : e.upc = .u1 ∨ e.upc = .u5 → Micro e (some (.rel (.err x))) (e.fail (.lineFault x))
  | low : e.upc = .u3 → Micro e (some (.low .ok)) e.proceed
  | lowErr (x : ErrImage) : e.upc = .u3 → Micro e (some (.low (.err x))) (e.fail (.lineFault x))
  | settle : e.upc = .u2 → Micro e (some (.dms 1)) e.proceed
  | start : e.upc = .u4 → Micro e (some (.dms 20)) e.proceed
  | wait : e.upc = .u6 → Micro e (some (.dus 40)) e.proceed
  | poll : e.polling = true → e.wps = .delay → Micro e (some (.dus 1)) { e with wps := .sample }
  | hit : e.polling = true → e.wps = .sample → Micro e (some (.rd (.level e.target))) e.waitDone
  | miss : e.polling = true → e.wps = .sample → e.cnt.toNat < 1000 →
      Micro e (some (.rd (.level e.target.other))) e.countMiss
  | timeout : e.polling = true → e.wps = .sample → 1000 ≤ e.cnt.toNat →
      Micro e (some (.rd (.level e.target.other))) (e.fail .timeout)
  | readErr (x : ErrImage) : e.polling = true → e.wps = .sample →
      Micro e (some (.rd (.err x))) (e.fail (.lineFault x))
  | crcOk : e.upc = .u10 → checksumOk e.frame = true → Micro e none { e with upc := .u11 }
  | crcBad : e.upc = .u10 → checksumOk e.frame = false → Micro e none (e.fail .crcMismatch)
  | extract : e.upc = .u11 → Micro e none e.extract

/-- What a micro-step does to the environment: nothing, or it takes the next answer of one kind. -/
inductive Environment.Answered (v : Environment) : Environment → Prop where
  | quiet : Answered v v
  | drive (d : LineDriver) : Answered v { v.nextDrive.2 with ldrv := v.nextDrive.1.driver d }
  | read : Answered v v.nextRead.2

/-- The error value an event carries, if it is a fault, is the environment's answer. -/
def Event.Fits : Event → Prop
  | .rel a => a.Fits
  | .low a => a.Fits
  | .rd a => a.Fits
  | .dus _ => True
  | .dms _ => True

/-- The inversion lemma of a micro-step with no request outstanding: away from U0 the engine's step always answers a next state, by one of the
micro-steps tabled, and touches nothing but the registers, the environment's answers and the event trace. -/
theorem engineStep_cases_free (s : State) (hh : s.held = none) (h : s.eng.upc ≠ .u0) :
    ∃ (t : State) (ev : Option Event), engineStep s = .next t ∧ s.eng.Micro ev t.eng ∧
      t.events = ev.toList ++ s.events ∧ s.env.Answered t.env ∧ t.turns = s.turns ∧ t.returned = s.returned ∧ t.held = s.held ∧ t.abandoned = s.abandoned ∧
      ∀ x, ev = some x → (∀ a ∈ s.env.drives, a.Fits) → (∀ a ∈ s.env.reads, a.Fits) → x.Fits := by
  have hs : s.answered = s := by cases s; cases hh; rfl
  have hd : ∀ a, s.env.nextDrive.1 = a → (∀ a ∈ s.env.drives, a.Fits) → a.Fits := by
    rintro a rfl hf; exact (Environment.nextDrive_fits hf).1
  have hr : ∀ a, s.env.nextRead.1 = a → (∀ a ∈ s.env.reads, a.Fits) → a.Fits := by
    rintro a rfl hf; exact (Environment.nextRead_fits hf).1
  have hrel : (s.eng.upc = .u1 ∨ s.eng.upc = .u5) → ∃ (t : State) (ev : Option Event), exec .setRelease s = .next t ∧
      s.eng.Micro ev t.eng ∧ t.events = ev.toList ++ s.events ∧ s.env.Answered t.env ∧ t.turns = s.turns ∧
      t.returned = s.returned ∧ t.held = s.held ∧ t.abandoned = s.abandoned ∧
      ∀ x, ev = some x → (∀ a ∈ s.env.drives, a.Fits) → (∀ a ∈ s.env.reads, a.Fits) → x.Fits := by
    intro hu
    cases ha : s.env.nextDrive.1 with
    | ok =>
      refine ⟨_, some (.rel .ok), rfl, ?_⟩
      simp only [setRelease, lineRelease_fst, ha, Flow.final_ok, State.proceed_eng, lineRelease_snd_eng,
        State.proceed_events, lineRelease_snd_events, State.proceed_env, lineRelease_snd_env, State.proceed_turns,
        lineRelease_snd_turns, State.proceed_returned, State.proceed_held, State.proceed_abandoned, lineRelease_snd_returned, lineRelease_snd_held, lineRelease_snd_abandoned]
      exact ⟨.rel hu, rfl, ha ▸ .drive _, trivial, trivial, trivial, trivial, by rintro x ⟨⟩ h1 h2; exact hd _ ha h1⟩
    | err e =>
      refine ⟨_, some (.rel (.err e)), rfl, ?_⟩
      simp only [setRelease, lineRelease_fst, ha, Flow.final_failed, State.fail_eng, lineRelease_snd_eng,
        State.fail_events, lineRelease_snd_events, State.fail_env, lineRelease_snd_env, State.fail_turns,
        lineRelease_snd_turns, State.fail_returned, State.fail_held, State.fail_abandoned, lineRelease_snd_returned, lineRelease_snd_held, lineRelease_snd_abandoned]
      exact ⟨.relErr e hu, rfl, ha ▸ .drive _, trivial, trivial, trivial, trivial, by rintro x ⟨⟩ h1 h2; exact hd _ ha h1⟩
  have hpoll : s.eng.polling = true → ∃ (t : State) (ev : Option Event),
      (match s.eng.wps with
        | .sample => exec .readLine s
        | .delay => exec (.delayUs 1) s) = .next t ∧
      s.eng.Micro ev t.eng ∧ t.events = ev.toList ++ s.events ∧ s.env.Answered t.env ∧ t.turns = s.turns ∧
      t.returned = s.returned ∧ t.held = s.held ∧ t.abandoned = s.abandoned ∧
      ∀ x, ev = some x → (∀ a ∈ s.env.drives, a.Fits) → (∀ a ∈ s.env.reads, a.Fits) → x.Fits := by
    intro hp
    cases hw : s.eng.wps with
    | delay =>
      refine ⟨_, some (.dus 1), rfl, ?_⟩
      have : s.eng.afterUs = { s.eng with wps := .sample } := by simp [Engine.afterUs, hp]
      simp only [delayUs_eng, delayUs_events, delayUs_env, delayUs_turns, delayUs_returned, delayUs_held, delayUs_abandoned, this]
      exact ⟨.poll hp hw, rfl, .quiet, trivial, trivial, trivial, trivial, by rintro x ⟨⟩ _ _; trivial⟩
    | sample =>
      rcases pollSample_cases s.eng.target s with ⟨ha, hs⟩ | ⟨ha, hc, hs⟩ | ⟨ha, hc, hs⟩ | ⟨e, ha, hs⟩
      · refine ⟨_, some (.rd (.level s.eng.target)), rfl, ?_⟩
        simp only [readLine, hp, hs, if_true, State.waitDone_eng, lineRead_snd_eng, State.waitDone_events,
          lineRead_snd_events, State.waitDone_env, lineRead_snd_env, State.waitDone_turns, lineRead_snd_turns,
          State.waitDone_returned, State.waitDone_held, State.waitDone_abandoned, lineRead_snd_returned, lineRead_snd_held, lineRead_snd_abandoned, ha]
        exact ⟨.hit hp hw, rfl, .read, trivial, trivial, trivial, trivial, by rintro x ⟨⟩ _ _; trivial⟩
      · refine ⟨_, some (.rd (.level s.eng.target.other)), rfl, ?_⟩
        simp only [readLine, hp, hs, if_true, lineRead_snd_events, lineRead_snd_env, lineRead_snd_turns,
          lineRead_snd_returned, lineRead_snd_held, lineRead_snd_abandoned, ha]
        exact ⟨.miss hp hw hc, rfl, .read, trivial, trivial, trivial, trivial, by rintro x ⟨⟩ _ _; trivial⟩
      · refine ⟨_, some (.rd (.level s.eng.target.other)), rfl, ?_⟩
        simp only [readLine, hp, hs, if_true, State.fail_eng, lineRead_snd_eng, State.fail_events,
          lineRead_snd_events, State.fail_env, lineRead_snd_env, State.fail_turns, lineRead_snd_turns,
          State.fail_returned, State.fail_held, State.fail_abandoned, lineRead_snd_returned, lineRead_snd_held, lineRead_snd_abandoned, ha]
        exact ⟨.timeout hp hw hc, rfl, .read, trivial, trivial, trivial, trivial, by rintro x ⟨⟩ _ _; trivial⟩
      · refine ⟨_, some (.rd (.err e)), rfl, ?_⟩
        simp only [readLine, hp, hs, if_true, State.fail_eng, lineRead_snd_eng, State.fail_events,
          lineRead_snd_events, State.fail_env, lineRead_snd_env, State.fail_turns, lineRead_snd_turns,
          State.fail_returned, State.fail_held, State.fail_abandoned, lineRead_snd_returned, lineRead_snd_held, lineRead_snd_abandoned, ha]
        exact ⟨.readErr e hp hw, rfl, .read, trivial, trivial, trivial, trivial, by rintro x ⟨⟩ _ h2; exact hr _ ha h2⟩
  cases hu : s.eng.upc with
  | u0 => exact absurd hu h
  | u1 =>
    obtain ⟨t, ev, h1, h2⟩ := hrel (.inl hu)
    exact ⟨t, ev, by simpa [engineStep, hs, Engine.microOp, hu] using h1, h2⟩
  | u5 =>
    obtain ⟨t, ev, h1, h2⟩ := hrel (.inr hu)
    exact ⟨t, ev, by simpa [engineStep, hs, Engine.microOp, hu] using h1, h2⟩
  | u2 =>
    refine ⟨delayMs 1 s, some (.dms 1), by simp [engineStep, hs, Engine.microOp, hu, exec, execDelayMs], ?_⟩
    exact ⟨.settle hu, rfl, .quiet, rfl, rfl, rfl, rfl, by rintro x ⟨⟩ _ _; trivial⟩
  | u4 =>
    refine ⟨delayMs 20 s, some (.dms 20), by simp [engineStep, hs, Engine.microOp, hu, exec, execDelayMs], ?_⟩
    exact ⟨.start hu, rfl, .quiet, rfl, rfl, rfl, rfl, by rintro x ⟨⟩ _ _; trivial⟩
  | u6 =>
    refine ⟨delayUs 40 s, some (.dus 40), by simp [engineStep, hs, Engine.microOp, hu, exec, execDelayUs], ?_⟩
    have : s.eng.afterUs = s.eng.proceed := by simp [Engine.afterUs, Engine.polling, hu]
    simp only [delayUs_eng, delayUs_events, delayUs_env, delayUs_turns, delayUs_returned, delayUs_held, delayUs_abandoned, this]
    exact ⟨.wait hu, rfl, .quiet, trivial, trivial, trivial, trivial, by rintro x ⟨⟩ _ _; trivial⟩
  | u3 =>
    have he : engineStep s = .next (setLow s).final := by simp [engineStep, hs, Engine.microOp, hu, exec, execSetLow]
    cases ha : s.env.nextDrive.1 with
    | ok =>
      refine ⟨_, some (.low .ok), he, ?_⟩
      simp only [setLow, lineLow_fst, ha, Flow.final_ok, State.proceed_eng, lineLow_snd_eng, State.proceed_events,
        lineLow_snd_events, State.proceed_env, lineLow_snd_env, State.proceed_turns, lineLow_snd_turns,
        State.proceed_returned, State.proceed_held, State.proceed_abandoned, lineLow_snd_returned, lineLow_snd_held, lineLow_snd_abandoned]
      exact ⟨.low hu, rfl, ha ▸ .drive _, trivial, trivial, trivial, trivial, by rintro x ⟨⟩ h1 h2; exact hd _ ha h1⟩
    | err e =>
      refine ⟨_, some (.low (.err e)), he, ?_⟩
      simp only [setLow, lineLow_fst, ha, Flow.final_failed, State.fail_eng, lineLow_snd_eng, State.fail_events,
        lineLow_snd_events, State.fail_env, lineLow_snd_env, State.fail_turns, lineLow_snd_turns, State.fail_returned, State.fail_held, State.fail_abandoned,
        lineLow_snd_returned, lineLow_snd_held, lineLow_snd_abandoned]
      exact ⟨.lowErr e hu, rfl, ha ▸ .drive _, trivial, trivial, trivial, trivial, by rintro x ⟨⟩ h1 h2; exact hd _ ha h1⟩
  | u7 =>
    obtain ⟨t, ev, h1, h2⟩ := hpoll ((Engine.polling_iff _).2 (by simp [hu]))
    exact ⟨t, ev, by rw [← h1]; simp only [engineStep, hs, Engine.microOp, hu]; cases s.eng.wps <;> rfl, h2⟩
  | u8 =>
    obtain ⟨t, ev, h1, h2⟩ := hpoll ((Engine.polling_iff _).2 (by simp [hu]))
    exact ⟨t, ev, by rw [← h1]; simp only [engineStep, hs, Engine.microOp, hu]; cases s.eng.wps <;> rfl, h2⟩
  | u9 =>
    obtain ⟨t, ev, h1, h2⟩ := hpoll ((Engine.polling_iff _).2 (by simp [hu]))
    exact ⟨t, ev, by rw [← h1]; simp only [engineStep, hs, Engine.microOp, hu]; cases s.eng.wps <;> rfl, h2⟩
  | u10 =>
    refine ⟨{ s with eng := s.eng.crcCheck }, none, by simp [engineStep, hs, Engine.microOp, hu, exec, execCrcCheck], ?_⟩
    refine ⟨?_, rfl, .quiet, rfl, rfl, rfl, rfl, by rintro x ⟨⟩⟩
    cases hc : checksumOk s.eng.frame with
    | true => simpa [Engine.crcCheck, hc] using Engine.Micro.crcOk hu hc
    | false => simpa [Engine.crcCheck, hc] using Engine.Micro.crcBad hu hc
  | u11 =>
    refine ⟨{ s with eng := s.eng.extract }, none, by simp [engineStep, hs, Engine.microOp, hu, exec, execExtract], ?_⟩
    exact ⟨.extract hu, rfl, .quiet, rfl, rfl, rfl, rfl, by rintro x ⟨⟩⟩

/-- A micro-step is the same whether its request is issued in it or was issued before. -/
theorem engineStep_answered (s : State) (h : s.eng.upc ≠ .u0) : engineStep s.answered = engineStep s := by
  cases hu : s.eng.upc <;> first | exact absurd hu h | (simp only [engineStep, Engine.microOp, State.answered_eng, hu]; rfl) |
    (simp only [engineStep, Engine.microOp, State.answered_eng, hu]; cases s.eng.wps <;> rfl)

/-- The inversion lemma of a micro-step: the same, and the request that was outstanding, if any, is answered. -/
theorem engineStep_cases (s : State) (h : s.eng.upc ≠ .u0) :
    ∃ (t : State) (ev : Option Event), engineStep s = .next t ∧ s.eng.Micro ev t.eng ∧
      t.events = ev.toList ++ s.events ∧ s.env.Answered t.env ∧ t.turns = s.turns ∧ t.returned = s.returned ∧
      t.held = none ∧ t.abandoned = s.abandoned ∧
      ∀ x, ev = some x → (∀ a ∈ s.env.drives, a.Fits) → (∀ a ∈ s.env.reads, a.Fits) → x.Fits :=
  engineStep_answered s h ▸ engineStep_cases_free s.answered rfl h

/-- At U0 "the engine is at rest and has no step of its own" (10_state.md R13). -/
theorem engineStep_rest (s : State) (h : s.eng.upc = .u0) : engineStep s = .next s := by
  simp [engineStep, Engine.microOp, h]

/-! ## Outstanding requests -/

/-- Answering a request takes at most the next answer of one kind. -/
theorem Environment.answer_answered (r : PortReq) (v : Environment) : v.Answered (v.answer r) := by
  rcases r with (_ | _ | _) | _
  · exact .drive .released
  · exact .drive .drivenLow
  · exact .read
  · exact .quiet

/-- What the late answer of an abandoned request can do: it is taken from the environment and off the list, and nothing else
changes (70_reset_and_hazards.md R161). -/
theorem State.lateAnswer_cases (n : Nat) (s : State) :
    (∃ r, s.abandoned[n]? = some r ∧
      s.lateAnswer n = { s with env := s.env.answer r, abandoned := s.abandoned.eraseIdx n }) ∨
    (s.abandoned[n]? = none ∧ s.lateAnswer n = s) := by
  unfold State.lateAnswer
  cases h : s.abandoned[n]? with
  | some r => exact .inl ⟨r, rfl, rfl⟩
  | none => exact .inr ⟨rfl, rfl⟩

/-- What issuing a request can do: nothing but that it is held. -/
theorem State.issueRequest_eq (s : State) : s.issueRequest = { s with held := s.held.or s.eng.request } := by
  unfold State.issueRequest
  cases h : s.held with
  | some r => cases s; cases h; rfl
  | none => rfl

/-- A refused command leaves the request of the next micro-step as it was. -/
@[simp] theorem Engine.request_refuse (e : Engine) : e.refuse.request = e.request := rfl

/-- The engine issues no request at rest (10_state.md R13). -/
theorem Engine.request_rest {e : Engine} (h : e.upc = .u0) : e.request = none := by
  simp [Engine.request, Engine.microOp, h]

end Sys2Proof.Machine
end

