-- ==== Sys2Proof/Laws/PerInstr.lean ====
section
/-! SUPPORT. Per operation, as syntax: the form of its code word (30_encoding.md R71) and its row of
spec/opcode_table.json. One lemma per constructor. -/

namespace Sys2Proof.Laws.CodeWord

/-- A well-formed operation has a code word of the operation's own width, no bit of it dropped, that matches the
operation's row of the table and no other row of that width. -/
def Statement (i : Instr) : Prop :=
  i.wf = true → (encode i).bits < 2 ^ (encode i).width ∧
    (opcodeTable.filter fun r => r.matches (encode i)).map OpcodeRow.mnemonic = [i.mnemonic]

theorem nop : Statement .nop := fun _ => by decide
theorem construct : Statement .construct := fun _ => by decide
theorem measure : Statement .measure := fun _ => by decide
theorem release : Statement .release := fun _ => by decide
theorem setRelease : Statement .setRelease := fun _ => by decide
theorem setLow : Statement .setLow := fun _ => by decide
theorem readLine : Statement .readLine := fun _ => by decide

theorem delayUs (n : Nat) : Statement (.delayUs n) := by
  intro h
  have hn : n < 64 := by simpa [Instr.wf, delayCountFits] using h
  interval_cases n <;> decide

theorem delayMs (n : Nat) : Statement (.delayMs n) := by
  intro h
  have hn : n < 64 := by simpa [Instr.wf, delayCountFits] using h
  interval_cases n <;> decide

theorem waitPulse (level : Level) : Statement (.waitPulse level) := fun _ => by cases level <;> decide
theorem readBit : Statement .readBit := fun _ => by decide
theorem handshake : Statement .handshake := fun _ => by decide
theorem bitLoop : Statement .bitLoop := fun _ => by decide
theorem trail : Statement .trail := fun _ => by decide
theorem crcCheck : Statement .crcCheck := fun _ => by decide
theorem extract : Statement .extract := fun _ => by decide

end Sys2Proof.Laws.CodeWord
end

