-- ==== Sys2Proof/Laws/Pulse.lean ====
section
/-! SUPPORT. What the poll loop does, said once: a run of misses, then a hit, a fault or the limit
(42_pulse_bit_decoder.md R100 to R102). -/

namespace Sys2Proof.Machine

theorem missTrace_snoc (l : Level) (k : Nat) :
    missTrace l k ++ [.dus 1, .rd (.level l.other)] = missTrace l (k + 1) := by
  induction k with
  | zero => rfl
  | succ k ih =>
    show Event.dus 1 :: Event.rd (.level l.other) :: (missTrace l k ++ [.dus 1, .rd (.level l.other)]) = _
    rw [ih]
    rfl

/-- `k` misses of the poll loop, below the limit: each is one read and one poll delay. -/
theorem waitLoop_misses (l : Level) (k : Nat) : ∀ (fuel : Nat) (s : State) (v : Environment),
    s.eng.wps = .sample → s.env.takeReads k = (List.replicate k (.level l.other), v) →
    s.eng.cnt.toNat + k ≤ 1000 →
    waitLoop l (k + fuel) s = waitLoop l fuel { s with
      eng := { s.eng with cnt := s.eng.cnt + BitVec.ofNat 10 k }, env := v, events := missTrace l k ++ s.events } := by
  induction k with
  | zero =>
    intro fuel s v _ h _
    have hv : s.env = v := by simpa using h
    simp [missTrace, ← hv]
  | succ k ih =>
    intro fuel s v hw h hc
    obtain ⟨h1, h2⟩ := Environment.takeReads_cons h
    rw [show k + 1 + fuel = (k + fuel) + 1 by omega, waitLoop, pollSample_miss h1 (by omega)]
    simp only
    have hcnt : (s.eng.cnt + 1).toNat = s.eng.cnt.toNat + 1 := by bv_omega
    rw [ih fuel (pollDelay { (lineRead s).2 with eng := s.eng.countMiss }) v rfl (by simpa using h2)
      (by simp only [pollDelay_eng, Engine.countMiss_cnt, hcnt]; omega)]
    congr 1
    have e1 : s.eng.cnt + 1 + BitVec.ofNat 10 k = s.eng.cnt + BitVec.ofNat 10 (k + 1) := by bv_omega
    have e2 : missTrace l k ++ Event.dus 1 :: Event.rd s.env.nextRead.1 :: s.events
        = missTrace l (k + 1) ++ s.events := by
      rw [← missTrace_snoc, h1, List.append_assoc]; rfl
    simp only [pollDelay, requestUs, lineRead, Engine.countMiss, ← e1, ← e2, ← hw, Config.tPollUs]

/-- A count within the limit is kept exactly by 10 bits (10_state.md R17). -/
theorem toNat_ofNat10 {k : Nat} (h : k ≤ 1000) : (BitVec.ofNat 10 k).toNat = k := by
  simp; omega

/-- A wait after `k` misses. -/
theorem waitPulse_misses (l : Level) (k : Nat) (hk : k ≤ 1000) (s : State) (v : Environment)
    (h : s.env.takeReads k = (List.replicate k (.level l.other), v)) :
    waitPulse l s = waitLoop l ((1000 - k) + 1) { s with
      eng := { s.eng with cnt := BitVec.ofNat 10 k, wps := .sample }, env := v
      events := missTrace l k ++ s.events } := by
  have := waitLoop_misses l k ((1000 - k) + 1) { s with eng := { s.eng with cnt := 0, wps := .sample } } v rfl h
    (by simpa using hk)
  have h0 : (0 : Count) + BitVec.ofNat 10 k = BitVec.ofNat 10 k := by simp
  simp only [h0] at this
  unfold waitPulse
  rw [show Config.timeoutCount + 1 = k + ((1000 - k) + 1) by simp only [Config.timeoutCount]; omega, this]

/-- A wait that the target ends, as a procedure: it yields its number of misses (42_pulse_bit_decoder.md R101). -/
theorem waitPulse_hit (l : Level) (k : Nat) (hk : k ≤ 1000) (s : State) (v : Environment)
    (h : s.env.takeReads (k + 1) = (waitSamples l k, v)) :
    waitPulse l s = .ok (BitVec.ofNat 10 k) { s with
      eng := { s.eng with cnt := BitVec.ofNat 10 k, wps := .sample }, env := v
      events := waitTrace l k ++ s.events } := by
  obtain ⟨u, h1, h2⟩ := Environment.takeReads_append (by simp) h
  obtain ⟨h3, h4⟩ := Environment.takeReads_cons h2
  obtain rfl : u.nextRead.2 = v := by simpa using h4
  rw [waitPulse_misses l k hk s u h1, waitLoop, pollSample_hit h3]
  simp only [lineRead, h3, waitTrace, List.cons_append]

/-- A wait that exhausts the limit, as a procedure (42_pulse_bit_decoder.md R102). -/
theorem waitPulse_timeout (l : Level) (s : State) (v : Environment)
    (h : s.env.takeReads 1001 = (List.replicate 1001 (.level l.other), v)) :
    waitPulse l s = .failed { s with
      eng := s.eng.fail .timeout, env := v
      events := .rd (.level l.other) :: missTrace l 1000 ++ s.events } := by
  rw [show (1001 : Nat) = 1000 + 1 by rfl, List.replicate_succ'] at h
  obtain ⟨u, h1, h2⟩ := Environment.takeReads_append (List.length_replicate ..) h
  obtain ⟨h3, h4⟩ := Environment.takeReads_cons h2
  obtain rfl : u.nextRead.2 = v := by simpa using h4
  rw [waitPulse_misses l 1000 (by omega) s u h1, waitLoop, pollSample_timeout h3 (by rw [toNat_ofNat10 (by omega)])]
  simp only [lineRead, h3, List.cons_append, State.fail]
  rfl

/-- A wait that a fault ends, as a procedure (60_exceptions.md R145). -/
theorem waitPulse_fault (l : Level) (k : Nat) (hk : k ≤ 1000) (s : State) (e : ErrImage) (v : Environment)
    (h : s.env.takeReads (k + 1) = (List.replicate k (.level l.other) ++ [.err e], v)) :
    waitPulse l s = .failed { s with
      eng := s.eng.fail (.lineFault e), env := v
      events := .rd (.err e) :: missTrace l k ++ s.events } := by
  obtain ⟨u, h1, h2⟩ := Environment.takeReads_append (by simp) h
  obtain ⟨h3, h4⟩ := Environment.takeReads_cons h2
  obtain rfl : u.nextRead.2 = v := by simpa using h4
  rw [waitPulse_misses l k hk s u h1, waitLoop, pollSample_err h3]
  simp only [lineRead, h3, List.cons_append, State.fail]
  rfl

/-- Whatever the environment answers, a wait meets one of the three. -/
theorem waitPulse_cases (l : Level) (s : State) :
    (∃ k v, k ≤ 1000 ∧ s.env.takeReads (k + 1) = (waitSamples l k, v)) ∨
    (∃ v, s.env.takeReads 1001 = (List.replicate 1001 (.level l.other), v)) ∨
    (∃ k e v, k ≤ 1000 ∧ s.env.takeReads (k + 1) = (List.replicate k (.level l.other) ++ [.err e], v)) := by
  have key : ∀ (n : Nat) (v : Environment),
      (∃ k w, k < n ∧ v.takeReads (k + 1) = (waitSamples l k, w)) ∨
      (∃ w, v.takeReads n = (List.replicate n (.level l.other), w)) ∨
      (∃ k e w, k < n ∧ v.takeReads (k + 1) = (List.replicate k (.level l.other) ++ [.err e], w)) := by
    intro n
    induction n with
    | zero => intro v; exact .inr (.inl ⟨v, rfl⟩)
    | succ n ih =>
      intro v
      cases h : v.nextRead.1 with
      | err e => exact .inr (.inr ⟨0, e, v.nextRead.2, by omega, by simp [Environment.takeReads_succ, h]⟩)
      | level m =>
        by_cases hm : m = l
        · subst hm
          exact .inl ⟨0, v.nextRead.2, by omega, by simp [Environment.takeReads_succ, h, waitSamples]⟩
        · have hm := Level.eq_other_of_ne hm
          subst hm
          rcases ih v.nextRead.2 with ⟨k, w, hk, hw⟩ | ⟨w, hw⟩ | ⟨k, e, w, hk, hw⟩
          · refine .inl ⟨k + 1, w, by omega, ?_⟩
            rw [Environment.takeReads_succ, hw, h]; simp [waitSamples, List.replicate_succ]
          · refine .inr (.inl ⟨w, ?_⟩)
            rw [Environment.takeReads_succ, hw, h]; simp [List.replicate_succ]
          · refine .inr (.inr ⟨k + 1, e, w, by omega, ?_⟩)
            rw [Environment.takeReads_succ, hw, h]; simp [List.replicate_succ]
  rcases key 1001 s.env with ⟨k, w, hk, hw⟩ | h | ⟨k, e, w, hk, hw⟩
  · exact .inl ⟨k, w, by omega, hw⟩
  · exact .inr (.inl h)
  · exact .inr (.inr ⟨k, e, w, by omega, hw⟩)

/-- The requests of `k` misses: `k` reads and `k` poll delays. -/
theorem missTrace_requests (l : Level) (k : Nat) : ((missTrace l k).filter Event.isRead).length = k ∧
   ((missTrace l k).filter fun ev => !ev.isRead).length = k ∧ ∀ ev ∈ missTrace l k, ev.isRead = true ∨ ev = .dus 1 := by
  induction k with
  | zero => simp [missTrace]
  | succ k ih =>
    obtain ⟨h1, h2, h3⟩ := ih
    have e1 : Event.isRead (.dus 1) = false := rfl
    have e2 : Event.isRead (.rd (.level l.other)) = true := rfl
    refine ⟨by simp [missTrace, e1, e2, h1], by simp [missTrace, e1, e2, h2], ?_⟩
    simpa [missTrace, e1, e2] using h3

/-- What a wait that succeeds leaves: its count in `CNT`, no other register changed but `WPS`, and nothing of the turns and
requests. -/
theorem waitLoop_ok {l : Level} : ∀ (fuel : Nat) (s t : State) (c : Count), waitLoop l fuel s = .ok c t →
    s.eng.wps = .sample →
    c = t.eng.cnt ∧ t.turns = s.turns ∧ t.held = s.held ∧ t.abandoned = s.abandoned ∧
      t.eng = { s.eng with cnt := t.eng.cnt, wps := .sample } := by
  intro fuel
  induction fuel with
  | zero => intro s t c h; cases h
  | succ fuel ih =>
    intro s t c h hw
    unfold waitLoop at h
    rcases pollSample_cases l s with ⟨_, hs⟩ | ⟨_, _, hs⟩ | ⟨_, _, hs⟩ | ⟨_, _, hs⟩ <;> rw [hs] at h
    · cases h; exact ⟨rfl, rfl, rfl, rfl, by rw [← hw]; rfl⟩
    · obtain ⟨h1, h2, h3, h4, h5⟩ := ih _ t _ h rfl
      exact ⟨h1, h2, h3, h4, h5⟩
    · cases h
    · cases h

/-- The same of `WAIT_PULSE` as a procedure (42_pulse_bit_decoder.md R100). -/
theorem waitPulse_ok {l : Level} {s t : State} {c : Count} (h : waitPulse l s = .ok c t) :
    c = t.eng.cnt ∧ t.turns = s.turns ∧ t.held = s.held ∧ t.abandoned = s.abandoned ∧
      t.eng = { s.eng with cnt := t.eng.cnt, wps := .sample } := by
  obtain ⟨h1, h2, h3, h4, h5⟩ := waitLoop_ok _ _ _ _ h rfl
  exact ⟨h1, h2, h3, h4, h5⟩

end Sys2Proof.Machine
end

