-- ==== Sys2Proof/Laws/Step.lean ====
section
/-! SUPPORT. What a step can do, said once: the inversion lemmas of a host command and of `step`. -/

namespace Sys2Proof.Machine

/-- The four host commands by the code in `CTRL[1:0]` (30_encoding.md R65). -/
theorem commandOf_cases (v : Word) :
    (v.toNat % 4 = 0 ∧ commandOf v = .nop) ∨ (v.toNat % 4 = 1 ∧ commandOf v = .construct) ∨
    (v.toNat % 4 = 2 ∧ commandOf v = .measure) ∨ (v.toNat % 4 = 3 ∧ commandOf v = .release) := by
  have h : v.toNat % 4 < 4 := Nat.mod_lt _ (by omega)
  unfold commandOf
  rcases Nat.lt_or_ge (v.toNat % 4) 1 with h0 | h0
  · have : v.toNat % 4 = 0 := by omega
    simp [this]
  · rcases Nat.lt_or_ge (v.toNat % 4) 2 with h1 | h1
    · have : v.toNat % 4 = 1 := by omega
      simp [this]
    · rcases Nat.lt_or_ge (v.toNat % 4) 3 with h2 | h2
      · have : v.toNat % 4 = 2 := by omega
        simp [this]
      · have : v.toNat % 4 = 3 := by omega
        simp [this]

/-- What a host command does to the registers, by its code (40_host_commands.md R80 to R85). -/
inductive Engine.Commanded (e : Engine) (code : Nat) : Engine → Prop where
  | nop : code = 0 → Commanded e code e
  | construct : code = 1 → e.bound = false → Commanded e code e.construct
  | measure : code = 2 → e.bound = true → e.busy = false → Commanded e code e.measure
  | release : code = 3 → e.bound = true → e.busy = false → Commanded e code e.release
  | refused : (code = 1 ∧ e.bound = true) ∨ ((code = 2 ∨ code = 3) ∧ (e.bound = false ∨ e.busy = true)) →
      Commanded e code e.refuse

/-- A host command always answers a next state, and touches only the registers. -/
theorem exec_command_cases (v : Word) (s : State) :
    ∃ e, exec (commandOf v) s = .next { s with eng := e } ∧ s.eng.Commanded (v.toNat % 4) e := by
  rcases commandOf_cases v with ⟨hc, h⟩ | ⟨hc, h⟩ | ⟨hc, h⟩ | ⟨hc, h⟩ <;> rw [h, hc]
  · exact ⟨s.eng, rfl, .nop rfl⟩
  · cases hb : s.eng.bound with
    | false =>
      exact ⟨_, by simp only [exec, execConstruct, Engine.acceptsConstruct, hb, Bool.not_false, if_true],
        .construct rfl hb⟩
    | true =>
      refine ⟨s.eng.refuse, ?_, .refused (.inl ⟨rfl, hb⟩)⟩
      simp [exec, execConstruct, Engine.acceptsConstruct, hb, State.refuse]
  · cases ha : s.eng.acceptsMeasure with
    | true =>
      have hbb : s.eng.bound = true ∧ s.eng.busy = false := by simpa [Engine.acceptsMeasure] using ha
      exact ⟨_, by simp only [exec, execMeasure, ha, if_true], .measure rfl hbb.1 hbb.2⟩
    | false =>
      refine ⟨s.eng.refuse, by simp [exec, execMeasure, ha, State.refuse], .refused (.inr ⟨.inl rfl, ?_⟩)⟩
      unfold Engine.acceptsMeasure at ha
      cases hb : s.eng.bound <;> simp_all
  · cases ha : s.eng.acceptsRelease with
    | true =>
      have hbb : s.eng.bound = true ∧ s.eng.busy = false := by simpa [Engine.acceptsRelease] using ha
      exact ⟨_, by simp only [exec, execRelease, ha, if_true], .release rfl hbb.1 hbb.2⟩
    | false =>
      refine ⟨s.eng.refuse, by simp [exec, execRelease, ha, State.refuse], .refused (.inr ⟨.inr rfl, ?_⟩)⟩
      unfold Engine.acceptsRelease at ha
      cases hb : s.eng.bound <;> simp_all

/-- The six offsets, and no other (20_memory.md R45). -/
theorem HostReg.at_eq_some {off : Nat} {r : HostReg} : HostReg.at off = some r ↔ off = r.offset := by
  constructor
  · intro h
    unfold HostReg.at at h
    split at h <;> (try cases h) <;> rfl
  · rintro rfl
    cases r <;> rfl

/-- The ways a step answers a next state (00_scope.md R7, 20_memory.md R52). -/
inductive Stepped (s t : State) : Prop where
  /-- Nothing of the engine or the environment changes: rest, a register read, an ignored write, a delay of the
  host; or the engine issues the request of its next micro-step. -/
  | quiet : t.eng = s.eng → t.env = s.env → t.events = s.events →
      (∀ r, t.held = some r → s.held = some r ∨ s.eng.request = some r) → (∀ x ∈ t.turns, x ∈ s.turns) → Stepped s t
  /-- The host's own line request, while `BOUND = 0`. -/
  | line (r : LineReq) (ts : List Turn) : s.turns = .host (.line r) :: ts → s.eng.bound = false → t.eng = s.eng →
      s.env.Answered t.env → t.events = s.events → t.held = s.held → t.turns = ts → Stepped s t
  /-- The answer, ignored, to a request that a reset abandoned. -/
  | late (n : Nat) (ts : List Turn) : s.turns = .lateAnswer n :: ts → t.eng = s.eng → s.env.Answered t.env →
      t.events = s.events → t.held = s.held → t.turns = ts → Stepped s t
  /-- A micro-step of the engine. -/
  | micro (ev : Option Event) : (s.turns = [] ∨ ∃ ts, s.turns = .engine :: ts ∨ s.turns = .run :: ts) →
      s.eng.upc ≠ .u0 → s.eng.Micro ev t.eng → t.events = ev.toList ++ s.events → s.env.Answered t.env →
      (∀ x ∈ t.turns, x ∈ s.turns) → t.returned = s.returned → t.held = none →
      (∀ x, ev = some x → (∀ a ∈ s.env.drives, a.Fits) → (∀ a ∈ s.env.reads, a.Fits) → x.Fits) → Stepped s t
  /-- A command written to `CTRL`. -/
  | command (v : Word) (ts : List Turn) (e : Engine) : s.turns = .host (.write 4 0 v) :: ts →
      s.eng.Commanded (v.toNat % 4) e → t = { s with turns := ts, eng := e } → Stepped s t
  /-- A reset. -/
  | reset (ts : List Turn) : s.turns = .host .reset :: ts → 
      t = { s with turns := ts, eng := Engine.reset, held := none, abandoned := s.abandoned ++ s.held.toList } →
      Stepped s t
  /-- An issued operation: no turn of the hardware. -/
  | issue (i : Instr) (ts : List Turn) : s.turns = .issue i :: ts → Stepped s t

/-- The engine's turn, as a way to step. -/
theorem stepped_engine {s u t : State} (hu : u = { s with turns := u.turns })
    (ht : s.turns = [] ∨ ∃ ts, s.turns = .engine :: ts ∨ s.turns = .run :: ts) (hsub : ∀ x ∈ u.turns, x ∈ s.turns)
    (h : engineStep u = .next t) : Stepped s t := by
  have he : u.eng = s.eng := by rw [hu]
  have hv : u.env = s.env := by rw [hu]
  have hn : u.events = s.events := by rw [hu]
  have hr : u.returned = s.returned := by rw [hu]
  have hp : u.held = s.held := by rw [hu]
  by_cases h0 : u.eng.upc = .u0
  · rw [engineStep_rest _ h0] at h
    cases h
    exact .quiet he hv hn (fun r hx => .inl (hp ▸ hx)) hsub
  · obtain ⟨t', ev, h1, h2, h3, h4, h5, h6, h8, -, h7⟩ := engineStep_cases u h0
    rw [h1] at h
    cases h
    refine .micro ev ht (he ▸ h0) (he ▸ h2) (hn ▸ h3) (hv ▸ h4) (fun x hx => hsub x (h5 ▸ hx)) (h6.trans hr) h8 ?_
    rw [← hv]
    exact h7

/-- The inversion lemma of `step`. -/
theorem step_cases {s t : State} (h : step s = .next t) : Stepped s t := by
  unfold step takeTurn at h
  split at h
  · rename_i hts
    exact stepped_engine (u := s) rfl (.inl hts) (fun _ hx => hx) h
  · rename_i a ts hts
    have hsub : ∀ x ∈ ts, x ∈ s.turns := by intro x hx; rw [hts]; exact List.mem_cons_of_mem _ hx
    cases a with
    | read bytes off =>
      simp only [hostStep, hostRead] at h
      split at h
      · split at h
        · cases h; exact .quiet rfl rfl rfl (fun _ hx => .inl hx) hsub
        · cases h
      · cases h
    | write bytes off v =>
      simp only [hostStep, hostWrite] at h
      split at h
      · rename_i hb
        split at h <;> try (cases h; exact .quiet rfl rfl rfl (fun _ hx => .inl hx) hsub)
        · rename_i hr
          obtain rfl : off = 0 := HostReg.at_eq_some.1 hr
          subst hb
          obtain ⟨e, he, hc⟩ := exec_command_cases v { s with turns := ts }
          rw [he] at h
          cases h
          exact .command v ts e hts hc rfl
        · cases h
      · cases h
    | reset =>
      cases h
      exact .reset ts hts rfl
    | line r =>
      simp only [hostStep] at h
      split at h
      · cases h
      · rename_i hb
        cases h
        refine .line r ts hts (by simpa using hb) ?_ ?_ ?_ ?_ ?_ <;> cases r <;> try rfl
        · exact .drive _
        · exact .drive _
        · exact .read
    | delay d =>
      simp only [hostStep] at h
      split at h
      · cases h
      · cases h; exact .quiet rfl rfl rfl (fun _ hx => .inl hx) hsub
  · rename_i ts hts
    exact stepped_engine (u := { s with turns := ts }) rfl (.inr ⟨ts, .inl hts⟩)
      (by intro x hx; rw [hts]; exact List.mem_cons_of_mem _ hx) h
  · rename_i ts hts
    cases h
    rw [State.issueRequest_eq]
    refine .quiet rfl rfl rfl ?_ (by intro x hx; rw [hts]; exact List.mem_cons_of_mem _ hx)
    exact fun r hx => (Option.or_eq_some_iff.1 hx).imp_right And.right
  · rename_i n ts hts
    cases h
    rcases State.lateAnswer_cases n { s with turns := ts } with ⟨r, -, h1⟩ | ⟨-, h1⟩ <;> rw [h1]
    · exact .late n ts hts rfl (Environment.answer_answered r _) rfl rfl rfl
    · exact .late n ts hts rfl .quiet rfl rfl rfl
  · rename_i ts hts
    split at h
    · cases h
      exact .quiet rfl rfl rfl (fun _ hx => .inl hx) (by intro x hx; rw [hts]; exact List.mem_cons_of_mem _ hx)
    · exact stepped_engine (u := s) rfl (.inr ⟨ts, .inr hts⟩) (fun _ hx => hx) h
  · rename_i i ts hts
    exact .issue i ts hts

/-- The answers of the environment keep fitting. -/
theorem Environment.Answered.fits {v w : Environment} (h : v.Answered w) (hd : ∀ a ∈ v.drives, a.Fits)
    (hr : ∀ a ∈ v.reads, a.Fits) : (∀ a ∈ w.drives, a.Fits) ∧ ∀ a ∈ w.reads, a.Fits := by
  cases h with
  | quiet => exact ⟨hd, hr⟩
  | drive d => exact ⟨(Environment.nextDrive_fits hd).2, by simpa using hr⟩
  | read => exact ⟨by simpa using hd, (Environment.nextRead_fits hr).2⟩

end Sys2Proof.Machine
end

