-- ==== Sys2Proof/Laws/Run.lean ====
section
/-! SUPPORT. Runs of the engine with no turn listed: one micro-step at a time, in two parts, and at rest
(10_state.md R13). -/

namespace Sys2Proof.Machine

/-- A run begins with its first step. -/
theorem run_succ (k : Nat) (s t : State) (h : step s = .next t) : core.run (k + 1) s = core.run k t := by
  have hc : core.step s = .next t := h
  simp only [Host.Core.run]
  rw [hc]

/-- A run in two parts. -/
theorem run_add (a b : Nat) : ∀ s t : State, core.run a s = .next t → core.run (a + b) s = core.run b t := by
  induction a with
  | zero => intro s t h; cases h; simp
  | succ a ih =>
    intro s t h
    have hr : core.run (a + 1) s = (match core.step s with
      | .next u => core.run a u
      | .fault r => .fault r
      | .refused r => .refused r) := by
      simp only [Host.Core.run]; cases core.step s <;> rfl
    rw [hr] at h
    rw [show a + 1 + b = (a + b) + 1 by omega]
    cases hs : core.step s with
    | next u => rw [hs] at h; rw [run_succ _ s u hs]; exact ih u t h
    | fault r => rw [hs] at h; cases h
    | refused r => rw [hs] at h; cases h

/-- With no turn listed, a step is the engine's. -/
theorem step_free {s : State} (h : s.turns = []) : step s = engineStep s := by
  simp only [step, takeTurn, h]

/-- With no turn listed, a step performs the micro-program's operation. -/
theorem step_micro {s : State} {i : Instr} (ht : s.turns = []) (h : s.eng.microOp = some i) : step s = exec i s.answered := by
  rw [step_free ht, engineStep, h]

/-- At rest a run changes nothing. -/
theorem run_rest (k : Nat) : ∀ s : State, s.turns = [] → s.eng.upc = .u0 → core.run k s = .next s := by
  induction k with
  | zero => intros; rfl
  | succ k ih =>
    intro s h1 h2
    rw [run_succ k s s (by rw [step_free h1, engineStep_rest s h2])]
    exact ih s h1 h2

/-- A run of at least one micro-step is the same whether the first request is issued in it or was issued before. -/
theorem run_answered {s : State} (k : Nat) (ht : s.turns = []) (hu : s.eng.upc ≠ .u0) :
    core.run (k + 1) s = core.run (k + 1) s.answered := by
  obtain ⟨t, ev, h, -⟩ := engineStep_cases s hu
  rw [run_succ k s t (by rw [step_free ht, h]),
    run_succ k s.answered t (by rw [step_free (s := s.answered) ht, engineStep_answered s hu, h])]

/-- The `SAMPLE` micro-step (42_pulse_bit_decoder.md R100). -/
theorem step_sample {s : State} (ht : s.turns = []) (hp : s.eng.polling = true) (hw : s.eng.wps = .sample) :
    step s = .next (readLine s.answered) := by
  rw [step_free ht]
  rcases (Engine.polling_iff _).1 hp with h | h | h <;> simp [engineStep, Engine.microOp, h, hw, exec, execReadLine]

/-- The `DELAY` micro-step (42_pulse_bit_decoder.md R100). -/
theorem step_delay {s : State} (ht : s.turns = []) (hp : s.eng.polling = true) (hw : s.eng.wps = .delay) :
    step s = .next (pollDelay s.answered) := by
  rw [step_free ht]
  have h2 : s.eng.afterUs = { s.eng with wps := .sample } := by simp [Engine.afterUs, hp]
  rcases (Engine.polling_iff _).1 hp with h | h | h <;>
    simp [engineStep, Engine.microOp, h, hw, exec, execDelayUs, delayUs, h2, pollDelay]

end Sys2Proof.Machine
end

