-- ==== Sys2Proof/Tests/Slice0.lean ====
section
/-! SUPPORT. Tests. Every expected result is the spec's: a vector of 95_test_vectors.md (V<n>), a code of 30_encoding.md, or a
table of 10_state.md. The theorems test_meets_… show, for each statement with hypotheses, states that meet them. -/

namespace Sys2Proof.Tests

open Sys2Proof.Machine

/-! ## Well-formedness and code words -/

/-- 30_encoding.md R76: the count has 6 bits. -/
theorem test_wf_refuses_delay_us_64 : (Instr.delayUs 64).wf = false ∧ (Instr.delayUs 63).wf = true := by decide

/-- 30_encoding.md R76. -/
theorem test_wf_refuses_delay_ms_64 : (Instr.delayMs 64).wf = false ∧ (Instr.delayMs 63).wf = true := by decide

/-- 30_encoding.md R65: bits [1:0] select the command, the 30 bits above are ignored. -/
theorem test_decode_host_commands :
    decode ⟨32, 0b00000000000000000000000000000000⟩ = .ok .nop ∧
    decode ⟨32, 0b00000000000000000000000000000001⟩ = .ok .construct ∧
    decode ⟨32, 0b00000000000000000000000000000010⟩ = .ok .measure ∧
    decode ⟨32, 0b00000000000000000000000000000011⟩ = .ok .release ∧
    decode ⟨32, 0b11111111111111111111111111111100⟩ = .ok .nop ∧
    decode ⟨32, 0b10000000000000000000000000000110⟩ = .ok .measure := ⟨rfl, rfl, rfl, rfl, rfl, rfl⟩

/-- 30_encoding.md R71: the 4-bit numbers 0, 1, 2 and 6 to 11. -/
theorem test_decode_micro_operations :
    decode ⟨4, 0b0000⟩ = .ok .setRelease ∧ decode ⟨4, 0b0001⟩ = .ok .setLow ∧ decode ⟨4, 0b0010⟩ = .ok .readLine ∧
    decode ⟨4, 0b0110⟩ = .ok .readBit ∧ decode ⟨4, 0b0111⟩ = .ok .handshake ∧ decode ⟨4, 0b1000⟩ = .ok .bitLoop ∧
    decode ⟨4, 0b1001⟩ = .ok .trail ∧ decode ⟨4, 0b1010⟩ = .ok .crcCheck ∧ decode ⟨4, 0b1011⟩ = .ok .extract :=
  ⟨rfl, rfl, rfl, rfl, rfl, rfl, rfl, rfl, rfl⟩

/-- 30_encoding.md R71: `0011nnnnnn`, `0100nnnnnn`, `0101l`. -/
theorem test_decode_operands :
    decode ⟨10, 0b0011000001⟩ = .ok (.delayUs 1) ∧ decode ⟨10, 0b0011111111⟩ = .ok (.delayUs 63) ∧
    decode ⟨10, 0b0100010100⟩ = .ok (.delayMs 20) ∧ decode ⟨10, 0b0100100000⟩ = .ok (.delayMs 32) ∧
    decode ⟨5, 0b01011⟩ = .ok (.waitPulse .high) ∧ decode ⟨5, 0b01010⟩ = .ok (.waitPulse .low) :=
  ⟨rfl, rfl, rfl, rfl, rfl, rfl⟩

/-- 30_encoding.md R71: the numbers 12 to 15 name nothing; 3, 4 and 5 need their operand bits. -/
theorem test_decode_refuses :
    decode ⟨4, 12⟩ = .error .reservedNumber ∧ decode ⟨4, 15⟩ = .error .reservedNumber ∧
    decode ⟨4, 3⟩ = .error .operandMissing ∧ decode ⟨4, 5⟩ = .error .operandMissing ∧
    decode ⟨5, 0b01001⟩ = .error .operandUnexpected ∧ decode ⟨10, 0b0010000000⟩ = .error .operandUnexpected ∧
    decode ⟨7, 0⟩ = .error .noSuchWidth ∧ decode ⟨4, 16⟩ = .error .tooWide :=
  ⟨rfl, rfl, rfl, rfl, rfl, rfl, rfl, rfl⟩

/-- No two rows of spec/opcode_table.json of one width share a word: where both masks look, the patterns differ. -/
theorem test_table_rows_are_disjoint : opcodeTable.Pairwise fun a b =>
    a.width = b.width → (a.pattern &&& b.mask) ≠ (b.pattern &&& a.mask) := by decide

/-- In whole bytes: a 4-bit, a 5-bit, a 10-bit and a 32-bit row (0x0A is log entry 12's choice). -/
theorem test_table_words_in_bytes :
    decodeTableWord 8 0x01 = some .setLow ∧ decodeTableWord 16 0x114 = some (.delayMs 20) ∧
    decodeTableWord 32 0x2 = some .measure ∧ decodeTableWord 5 0x0B = some (.waitPulse .high) ∧
    decodeTableWord 8 0x0A = some .crcCheck ∧ decodeTableWord 8 0x0C = none := ⟨rfl, rfl, rfl, rfl, rfl, rfl⟩

/-- 30_encoding.md R75, R76: the codes on the two ports. -/
theorem test_port_codes :
    LineReq.rel.code = 0b00 ∧ LineReq.low.code = 0b01 ∧ LineReq.rd.code = 0b10 ∧ DriveAns.ok.status = 0b00 ∧
    (ReadAns.level .low).status = 0b01 ∧ (ReadAns.level .high).status = 0b10 ∧ (ReadAns.err 7).status = 0b11 ∧
    DelayReq.code ⟨.us, 40⟩ = 0b0101000 ∧ DelayReq.code ⟨.ms, 20⟩ = 0b1010100 := by decide

/-! ## One step of each operation -/

/-- A state with the sequencer at `u` in phase `p`, `BOUND = 1`, and the listed answers of the line. -/
def standing (u : Upc) (p : Phase) (ds : List DriveAns) (rs : List ReadAns) : State :=
  { State.reset with
    eng := { Engine.reset with bound := true, ph := p, upc := u }
    env := { Environment.powerUp with drives := ds, reads := rs } }

/-- `standing` with other registers changed. -/
def State.regs (s : State) (f : Engine → Engine) : State := { s with eng := f s.eng }

/-- The next state, if there is one. -/
def after (o : Host.Outcome State Fault Refusal) : Option State :=
  match o with
  | .next s => some s
  | .fault _ => none
  | .refused _ => none

/-- The low bits of `STATUS` after an outcome. -/
def statusAfter (o : Host.Outcome State Fault Refusal) : Option Word := (after o).map fun s => s.eng.statusWord

/-- READY in the phase `p`, at rest. -/
def ready (p : Phase) : State := standing .u0 p [] []

/-- 95_test_vectors.md 2.7, column `NOP`. -/
theorem test_nop : statusAfter (exec .nop (ready .failed)) = some 0x00000609 := by decide

/-- 2.7, column `CONSTRUCT`. -/
theorem test_construct :
    statusAfter (exec .construct State.reset) = some 0x00000001 ∧
    statusAfter (exec .construct (ready .idle)) = some 0x00000011 := by decide

/-- 2.7, column `MEASURE`. -/
theorem test_measure :
    statusAfter (exec .measure (ready .done)) = some 0x00000103 ∧
    statusAfter (exec .measure State.reset) = some 0x00000010 ∧
    statusAfter (exec .measure (standing .u3 .handshaking [] [])) = some 0x00000113 := by decide

/-- 2.7, column `RELEASE`. -/
theorem test_release :
    statusAfter (exec .release (ready .done)) = some 0x00000504 ∧
    statusAfter (exec .release (standing .u3 .handshaking [] [])) = some 0x00000113 := by decide

/-- V50a, V50b: the driver's shadow, and the fault's value in `LFINFO`. -/
theorem test_setRelease :
    ((after (exec .setRelease (standing .u5 .handshaking [.ok] []))).map fun s => (s.eng.upc, s.env.ldrv)) =
      some (.u6, .released) ∧
    ((after (exec .setRelease (standing .u1 .handshaking [.err 0xE1] []))).map fun s =>
      (s.eng.statusWord, s.eng.lfinfoWord, s.env.ldrv)) = some (0x00000609, 0xE1, .unknown) := by decide

/-- V50c, V50d. -/
theorem test_setLow :
    ((after (exec .setLow (standing .u3 .handshaking [.ok] []))).map fun s => (s.eng.upc, s.env.ldrv)) =
      some (.u4, .drivenLow) ∧
    ((after (exec .setLow (standing .u3 .handshaking [.err 0xE2] []))).map fun s =>
      (s.eng.errWord, s.eng.lfinfoWord, s.env.ldrv)) = some (3, 0xE2, .unknown) := by decide

/-- V17: a fault on the 1001st sample is `LineFault`, not `Timeout`. -/
theorem test_readLine_fault_before_count :
    ((after (exec .readLine (State.regs (standing .u7 .handshaking [] [.err 0xE5]) ({ · with cnt := 1000 })))).map
      fun s => (s.eng.errWord, s.eng.lfinfoWord)) = some (3, 0xE5) := by decide

/-- V41d's last sample: counts 4 and 5 store a 1; V16's place, bit 17 (`STATUS` reads 0x00110203 before it). -/
theorem test_readLine_stores_bit :
    ((after (exec .readLine (State.regs (standing .u8 .bitreading [] [.level .low])
      ({ · with rbp := .highph, lowcnt := 4, cnt := 5, bitidx := 17 })))).map fun s =>
      (s.eng.frame[2], s.eng.statusWord)) = some (0x40, 0x00120203) := by decide

/-- V50g: the delay at U6 begins the bit read; the poll delay makes a sample next. -/
theorem test_delayUs :
    ((after (exec (.delayUs 40) (standing .u6 .handshaking [] []))).map fun s => (s.eng.upc, s.events)) =
      some (.u7, [.dus 40]) ∧
    ((after (exec (.delayUs 1) (State.regs (standing .u9 .trailing [] []) ({ · with wps := .delay })))).map
      fun s => (s.eng.upc, s.eng.wps)) = some (.u9, .sample) := by decide

/-- V50g. -/
theorem test_delayMs :
    ((after (exec (.delayMs 20) (standing .u4 .handshaking [] []))).map fun s => (s.eng.upc, s.events)) =
      some (.u5, [.dms 20]) := by decide

/-- V40d: three misses, and the trace has four reads and three polls. -/
theorem test_waitPulse :
    ((after (exec (.waitPulse .high) (standing .u0 .idle []
      [.level .low, .level .low, .level .low, .level .high]))).map fun s => (s.eng.cnt, s.events.length)) =
      some (3, 7) := by decide

/-- V40g: the sixth read faults. -/
theorem test_waitPulse_fault :
    ((after (exec (.waitPulse .high) (standing .u7 .handshaking []
      (List.replicate 5 (.level .low) ++ [.err 0x07])))).map fun s => (s.eng.lfinfoWord, s.events.length)) =
      some (7, 11) := by decide

/-- V41b and V41c: low 3, high 4 is 1; low 4, high 4 is 0. -/
theorem test_readBit :
    ((after (exec .readBit (standing .u8 .bitreading [] (List.replicate 3 (.level .low) ++
      List.replicate 5 (.level .high) ++ [.level .low])))).map fun s => s.eng.frame[0]) = some 0x80 ∧
    ((after (exec .readBit (standing .u8 .bitreading [] (List.replicate 4 (.level .low) ++
      List.replicate 5 (.level .high) ++ [.level .low])))).map fun s => s.eng.frame[0]) = some 0 := by decide

/-- The six events of 95_test_vectors.md 2.1, then V12's acknowledgment `H L`. -/
theorem test_handshake :
    ((after (exec .handshake (standing .u1 .handshaking [.ok, .ok, .ok] [.level .high, .level .low]))).map fun s =>
      (s.eng.statusWord, s.events)) =
      some (0x00000203, [.rd (.level .low), .rd (.level .high), .dus 40, .rel .ok, .dms 20, .low .ok, .dms 1,
        .rel .ok]) := by decide

/-- V15: a fault at U5; neither the delay at U6 nor a read is issued. -/
theorem test_handshake_fault :
    ((after (exec .handshake (standing .u1 .handshaking [.ok, .ok, .err 0xE3] []))).map fun s =>
      (s.eng.lfinfoWord, s.events.length, s.env.ldrv)) = some (0xE3, 5, .unknown) := by decide

/-- 95_test_vectors.md 2.4, row 16: the bit is 1 in iteration 16 only. -/
theorem test_bitLoop :
    ((after (exec .bitLoop (standing .u8 .bitreading [] ((List.replicate 16 [.level .high, .level .low]).flatten ++
      [.level .high, .level .high, .level .low] ++ (List.replicate 23 [.level .high, .level .low]).flatten)))).map
      fun s => (s.eng.frame.toList, s.eng.statusWord)) = some ([0, 0, 0x80, 0, 0], 0x00280303) := by
  set_option maxRecDepth 8000 in decide

/-- V1's last wait returns 49 for `END`; here 2 for short. The count is discarded. -/
theorem test_trail :
    ((after (exec .trail (State.regs (standing .u9 .trailing [] [.level .low, .level .low, .level .high])
      ({ · with bitidx := 40 })))).map fun s => (s.eng.statusWord, s.eng.cnt)) = some (0x00280403, 0) := by decide

/-- A checksum test on a frame. -/
def check (f : Frame) : Option (Upc × Word) :=
  (after (exec .crcCheck (State.regs (standing .u10 .checksum [] []) ({ · with frame := f })))).map fun s =>
    (s.eng.upc, s.eng.errWord)

/-- V30d and V30g: the sum wraps. -/
theorem test_crcCheck_passes :
    check #v[0xFF, 0xFF, 0xFF, 0xFF, 0xFC] = some (.u11, 0) ∧ check #v[0x80, 0x80, 0x80, 0x80, 0x00] = some (.u11, 0) := by
  decide

/-- V30b and V30k (90_conflicts.md C2: four bytes, not three). -/
theorem test_crcCheck_fails :
    check #v[0x32, 0x00, 0x15, 0x00, 0x48] = some (.u0, 2) ∧ check #v[0x01, 0x02, 0x03, 0x04, 0x06] = some (.u0, 2) := by
  decide

/-- The two registers after `EXTRACT` of a frame. -/
def fields (f : Frame) : Option (Word × Word) :=
  (after (exec .extract (State.regs (standing .u11 .checksum [] []) ({ · with frame := f })))).map fun s =>
    (s.eng.humWord, s.eng.tempWord)

/-- V31a and V31b. -/
theorem test_extract :
    fields #v[0x32, 0x00, 0x15, 0x00, 0x47] = some (500, 0x000000D2) ∧
    fields #v[0x28, 0x00, 0x8F, 0x02, 0xB9] = some (400, 0xFFFFFF68) := by decide

/-- V31c, V31f, V31k, V31l: the extremes, negative zero, bit 7 of byte 3. -/
theorem test_extract_corners :
    fields #v[0xFF, 0xFF, 0xFF, 0xFF, 0xFC] = some (0x00000AF5, 0xFFFFFA0B) ∧
    fields #v[0x00, 0x00, 0x80, 0x00, 0x80] = some (0, 0) ∧ fields #v[0x00, 0x00, 0x00, 0x80, 0x80] = some (0, 0x80) ∧
    fields #v[0x00, 0x00, 0x81, 0x80, 0x01] = some (0, 0xFFFFFF76) := by decide

/-! ## Steps of the host -/

/-- V60c: a reset at U4 leaves the line driven low and records no error. -/
theorem test_reset_mid_pulse :
    ((after (step { State.regs (standing .u4 .handshaking [] []) id with
      env := { Environment.powerUp with ldrv := .drivenLow }, turns := [.host .reset] })).map fun s =>
      (s.eng, s.env.ldrv, s.turns)) = some (Engine.reset, .drivenLow, []) := by decide

/-- 70_reset_and_hazards.md R161: a reset while the `REL` of U5 is outstanding abandons it, and records no event and no
error. -/
theorem test_reset_abandons :
    ((after (step { standing .u5 .handshaking [.ok] [] with
      held := some (.line .rel), turns := [.host .reset] })).map fun s =>
      (s.eng, s.held, s.abandoned, s.events)) = some (Engine.reset, none, [.line .rel], []) := by decide

/-- R161 and 20_memory.md R54: its answer is ignored, but the driver is released. -/
theorem test_lateAnswer :
    ((after (step { State.reset with
      env := { Environment.powerUp with drives := [.ok], ldrv := .drivenLow }
      abandoned := [.line .rel], turns := [.lateAnswer 0] })).map fun s =>
      (s.eng, s.env.ldrv, s.events, s.abandoned)) = some (Engine.reset, .released, [], []) := by decide

/-- 30_encoding.md R75, R76: the request held at U4, and its answer in the micro-step that follows. -/
theorem test_request_held :
    ((after (step { standing .u4 .handshaking [] [] with turns := [.request] })).map fun s =>
      (s.held, s.eng.upc, s.events)) = some (some (.delay ⟨.ms, 20⟩), .u4, []) ∧
    ((after (step { standing .u4 .handshaking [] [] with held := some (.delay ⟨.ms, 20⟩) })).map fun s =>
      (s.held, s.eng.upc, s.events)) = some (none, .u5, [.dms 20]) := by decide

/-- 20_memory.md R45: a 16-bit access and an access past the block. -/
theorem test_host_access_refused :
    step { State.reset with turns := [.host (.read 2 4)] } = .refused .hostAccess ∧
    step { State.reset with turns := [.host (.read 4 0x18)] } = .refused .hostAccess := ⟨rfl, rfl⟩

/-- 30_encoding.md R73: `X(0xE4)@6` in the script `L H` answers the third read, after both tokens (request 3 + n is the n-th
read). -/
theorem test_script_fault : putFault none 0 6 0xE4 [.level .low, .level .high] =
    [.level .low, .level .high, .err 0xE4] := by decide

/-- Log entry 26: in the script `L` it still answers request 6; the read before it is a free answer. -/
theorem test_script_fault_past_the_tokens : putFault none 0 6 0xE4 [.level .low] =
    [.level .low, freeRead 1, .err 0xE4] := rfl

/-- 10_state.md R25's map, and V1's `HUM` and `TEMP`, which differ. -/
theorem test_host_register_map : HostReg.ctrl.offset = 0x00 ∧ HostReg.status.offset = 0x04 ∧ HostReg.err.offset = 0x08 ∧
    HostReg.lfinfo.offset = 0x0C ∧ HostReg.hum.offset = 0x10 ∧ HostReg.temp.offset = 0x14 ∧
    ((after (step { State.regs (ready .done) ({ · with hum := 500, temp := 210 }) with
      turns := [.host (.read 4 0x10)] })).map fun s => s.returned) = some [.data 0x10 0x000001F4] := by decide

/-- 30_encoding.md R73: `BYTE(0x32)` begins with the most significant bits of 0b00110010. -/
theorem test_script_symbols :
    (byteSymbols 0x32).take 8 = [(.low, 50), (.high, 27), (.low, 50), (.high, 27), (.low, 50), (.high, 70), (.low, 50),
      (.high, 70)] := by decide

/-! ## The hypotheses of the statements are met -/

/-- The line's answers `rs`, listed, are the ones taken. -/
theorem listed_reads (rs : List ReadAns) (u : Upc) (p : Phase) (ds : List DriveAns) (n : Nat) (h : n = rs.length) :
    ∃ v, (standing u p ds rs).env.takeReads n = (rs, v) := by
  subst h
  exact ⟨_, Environment.takeReads_listed rs [] _ (List.append_nil rs).symm⟩

theorem test_meets_NopChangesNothing : (0xFFFFFFFC : Word).toNat % 4 = 0 := by decide

theorem test_meets_ConstructTakesOwnership : State.reset.eng.bound = false ∧ (ready .idle).eng.bound = true := by decide

theorem test_meets_MeasureStartsTheSequencer :
    ((ready .idle).eng.bound = true ∧ (ready .idle).eng.ph = .idle) ∧
    ((ready .done).eng.bound = true ∧ (ready .done).eng.ph = .done) ∧
    ((ready .failed).eng.bound = true ∧ (ready .failed).eng.ph = .failed) ∧ State.reset.eng.bound = false ∧
    (standing .u1 .handshaking [] []).eng.ph = .handshaking ∧ (standing .u8 .bitreading [] []).eng.ph = .bitreading ∧
    (standing .u9 .trailing [] []).eng.ph = .trailing ∧ (standing .u10 .checksum [] []).eng.ph = .checksum := by decide

theorem test_meets_ReleaseKeepsTheResult :
    ((ready .done).eng.bound = true ∧ (ready .done).eng.ph = .done) ∧ State.reset.eng.bound = false ∧
    (standing .u10 .checksum [] []).eng.ph = .checksum := by decide

theorem test_meets_ConstructReleaseConstructIsConstruct : State.reset.eng.bound = false := by decide

theorem test_meets_SetReleaseMovesOnOrAborts :
    ((standing .u1 .handshaking [.ok] []).env.nextDrive.1 = .ok ∧ (standing .u1 .handshaking [.ok] []).eng.upc = .u1) ∧
    ((standing .u5 .handshaking [.ok] []).env.nextDrive.1 = .ok ∧ (standing .u5 .handshaking [.ok] []).eng.upc = .u5) ∧
    (standing .u1 .handshaking [.err 0xE1] []).env.nextDrive.1 = .err 0xE1 := by decide

theorem test_meets_SetLowMovesOnOrAborts :
    ((standing .u3 .handshaking [.ok] []).env.nextDrive.1 = .ok ∧ (standing .u3 .handshaking [.ok] []).eng.upc = .u3) ∧
    (standing .u3 .handshaking [.err 0xE2] []).env.nextDrive.1 = .err 0xE2 := by decide

theorem test_meets_LineFaultCarriesTheErrorUnchanged :
    (standing .u3 .handshaking [.err 0xE2] []).env.nextDrive.1 = .err 0xE2 ∧
    (standing .u7 .handshaking [] [.err 0xE4]).env.nextRead.1 = .err 0xE4 := by decide

theorem test_meets_DelayUsMovesOn :
    (standing .u6 .handshaking [] []).eng.upc = .u6 ∧ (standing .u7 .handshaking [] []).eng.upc = .u7 := by decide

theorem test_meets_DelayMsMovesOn :
    (standing .u2 .handshaking [] []).eng.upc = .u2 ∧ (standing .u4 .handshaking [] []).eng.upc = .u4 := by decide

/-- A polling state with a count. -/
def polling (u : Upc) (b : BitPart) (c : Count) (i : BitIndex) (l : Level) : State :=
  State.regs (standing u .bitreading [] [.level l]) ({ · with rbp := b, cnt := c, bitidx := i })

/-- Each clause's whole premise, at the limit of the count and at the last bit. -/
theorem test_meets_SampleMissCountsOrTimesOut :
    (polling .u7 .lowph 999 0 .low).env.nextRead = (.level .low, Environment.powerUp) ∧
    (polling .u7 .lowph 999 0 .low).eng.upc = .u7 ∧ (polling .u7 .lowph 999 0 .low).eng.rbp = .lowph ∧
    (polling .u7 .lowph 999 0 .low).eng.cnt.toNat < 1000 ∧
    (polling .u8 .highph 1000 0 .high).env.nextRead = (.level .high, Environment.powerUp) ∧
    (polling .u8 .highph 1000 0 .high).eng.upc = .u8 ∧ (polling .u8 .highph 1000 0 .high).eng.rbp = .highph ∧
    (polling .u8 .highph 1000 0 .high).eng.cnt.toNat = 1000 := by decide

/-- The premises of one clause of `SampleHitCompletesTheWait`. -/
def hitPremises (s : State) (l : Level) (b : BitPart) (u : Upc) : Bool :=
  decide (s.env.nextRead = (.level l, Environment.powerUp)) && decide (s.eng.rbp = b) && decide (s.eng.upc = u)

theorem test_meets_SampleHitCompletesTheWait :
    hitPremises (polling .u7 .lowph 0 0 .high) .high .lowph .u7 = true ∧
    hitPremises (polling .u8 .lowph 1000 0 .high) .high .lowph .u8 = true ∧
    hitPremises (polling .u9 .lowph 0 40 .high) .high .lowph .u9 = true ∧
    hitPremises (polling .u7 .highph 0 0 .low) .low .highph .u7 = true ∧
    hitPremises (polling .u8 .highph 0 38 .low) .low .highph .u8 = true ∧
    (polling .u8 .highph 0 38 .low).eng.bitidx.toNat < 39 ∧
    hitPremises (polling .u8 .highph 0 39 .low) .low .highph .u8 = true ∧
    (polling .u8 .highph 0 39 .low).eng.bitidx.toNat = 39 := by decide

theorem test_meets_WaitPulseReturnsItsMisses :
    (∃ v, (standing .u7 .handshaking [] (waitSamples .high 0)).env.takeReads (0 + 1) = (waitSamples .high 0, v)) ∧
    ∃ v, (standing .u7 .handshaking [] (waitSamples .low 1000)).env.takeReads (1000 + 1) = (waitSamples .low 1000, v) :=
  ⟨listed_reads _ _ _ _ _ rfl, listed_reads _ _ _ _ _ (by rw [waitSamples, List.length_append, List.length_replicate]; rfl)⟩

theorem test_meets_WaitPulseTimesOutAtItsLimit :
    ∃ v, (standing .u7 .handshaking [] (List.replicate 1001 (.level .low))).env.takeReads 1001 =
      (List.replicate 1001 (.level Level.high.other), v) :=
  listed_reads _ _ _ _ _ (List.length_replicate ..).symm

theorem test_meets_WaitPulseFaultIsNoTimeout :
    (∃ v, (standing .u7 .handshaking [] [.err 7]).env.takeReads (0 + 1) =
      (List.replicate 0 (.level Level.high.other) ++ [.err 7], v)) ∧
    ∃ v, (standing .u7 .handshaking [] (List.replicate 1000 (.level .low) ++ [.err 7])).env.takeReads (1000 + 1) =
      (List.replicate 1000 (.level Level.high.other) ++ [.err 7], v) :=
  ⟨listed_reads _ _ _ _ _ rfl, listed_reads _ _ _ _ _ (by rw [List.length_append, List.length_replicate]; rfl)⟩

theorem test_meets_AcknowledgmentIsDiscarded : ∃ v,
    (standing .u7 .handshaking [] (bitSamples (0, 1000))).eng.upc = .u7 ∧
    (standing .u7 .handshaking [] (bitSamples (0, 1000))).env.takeReads (bitSamples (0, 1000)).length =
      (bitSamples (0, 1000), v) := by
  obtain ⟨v, h⟩ := listed_reads (bitSamples (0, 1000)) .u7 .handshaking [] _ rfl
  exact ⟨v, rfl, h⟩

theorem test_meets_ReadBitStoresTheComparison : ∃ v,
    (standing .u8 .bitreading [] (bitSamples (1000, 0))).eng.upc = .u8 ∧
    (standing .u8 .bitreading [] (bitSamples (1000, 0))).eng.bitidx.toNat < 40 ∧
    (standing .u8 .bitreading [] (bitSamples (1000, 0))).env.takeReads (bitSamples (1000, 0)).length =
      (bitSamples (1000, 0), v) := by
  obtain ⟨v, h⟩ := listed_reads (bitSamples (1000, 0)) .u8 .bitreading [] _ rfl
  exact ⟨v, rfl, by decide, h⟩

theorem test_meets_ReadBitStopsAtItsFirstTimeout :
    ∃ v, (standing .u8 .bitreading [] (List.replicate 1001 (.level .low))).env.takeReads 1001 =
      (List.replicate 1001 (.level .low), v) := listed_reads _ _ _ _ _ (List.length_replicate ..).symm

theorem test_meets_StoredBitChangesOnlyItsPlace : (0 < 40 ∧ 39 < 40) ∧ (0 = 0 / 8 ∧ 7 = 7 - 0 % 8) ∧
    (4 = 39 / 8 ∧ 0 = 7 - 39 % 8) := by decide

/-- The counts of a frame whose bits are all 1. -/
def allOnes : List (Nat × Nat) := List.replicate 40 (0, 1000)

theorem test_meets_BitLoopFillsTheFrame : ∃ v, allOnes.length = 40 ∧ (∀ p ∈ allOnes, p.1 ≤ 1000 ∧ p.2 ≤ 1000) ∧
    (standing .u8 .bitreading [] (allOnes.flatMap bitSamples)).env.takeReads (allOnes.flatMap bitSamples).length =
      (allOnes.flatMap bitSamples, v) := by
  obtain ⟨v, h⟩ := listed_reads (allOnes.flatMap bitSamples) .u8 .bitreading [] _ rfl
  exact ⟨v, List.length_replicate .., by decide, h⟩

theorem test_meets_TrailConsumesTheFinalLowPulse :
    (∃ v, (standing .u9 .trailing [] (waitSamples .high 0)).env.takeReads (0 + 1) = (waitSamples .high 0, v)) ∧
    ∃ v, (standing .u9 .trailing [] (waitSamples .high 1000)).env.takeReads (1000 + 1) = (waitSamples .high 1000, v) :=
  ⟨listed_reads _ _ _ _ _ rfl, listed_reads _ _ _ _ _ (by rw [waitSamples, List.length_append, List.length_replicate]; rfl)⟩

theorem test_meets_TrailTimeoutDiscardsTheFrame :
    ∃ v, (standing .u9 .trailing [] (List.replicate 1001 (.level .low))).env.takeReads 1001 =
      (List.replicate 1001 (.level .low), v) := listed_reads _ _ _ _ _ (List.length_replicate ..).symm

/-- At U1 with three drive answers. -/
def starting (ds : List DriveAns) : State := standing .u1 .handshaking ds (bitSamples (0, 1))

theorem test_meets_HandshakeSendsTheStartSignal : ∃ v,
    (starting [.ok, .ok, .ok]).env.rel.1 = .ok ∧ (starting [.ok, .ok, .ok]).env.rel.2.low.1 = .ok ∧
    (starting [.ok, .ok, .ok]).env.rel.2.low.2.rel.1 = .ok ∧
    (starting [.ok, .ok, .ok]).env.rel.2.low.2.rel.2.takeReads (bitSamples (0, 1)).length = (bitSamples (0, 1), v) :=
  ⟨_, rfl, rfl, rfl, rfl⟩

theorem test_meets_HandshakeFaultEndsItAtOnce :
    (starting [.err 1]).env.rel.1 = .err 1 ∧
    ((starting [.ok, .err 2]).env.rel.1 = .ok ∧ (starting [.ok, .err 2]).env.rel.2.low.1 = .err 2) ∧
    ((starting [.ok, .ok, .err 3]).env.rel.1 = .ok ∧ (starting [.ok, .ok, .err 3]).env.rel.2.low.1 = .ok ∧
      (starting [.ok, .ok, .err 3]).env.rel.2.low.2.rel.1 = .err 3) := by decide

/-- A state with a frame. -/
def framed (f : Frame) : State := State.regs (standing .u10 .checksum [] []) ({ · with frame := f })

/-- V30d (the sum 0x3FC) and V30e. -/
theorem test_meets_CrcCheckComparesTheTruncatedSum :
    ((framed #v[0xFF, 0xFF, 0xFF, 0xFF, 0xFC]).eng.frame[0].toNat + (framed #v[0xFF, 0xFF, 0xFF, 0xFF, 0xFC]).eng.frame[1].toNat +
      (framed #v[0xFF, 0xFF, 0xFF, 0xFF, 0xFC]).eng.frame[2].toNat +
      (framed #v[0xFF, 0xFF, 0xFF, 0xFF, 0xFC]).eng.frame[3].toNat) % 256 =
      (framed #v[0xFF, 0xFF, 0xFF, 0xFF, 0xFC]).eng.frame[4].toNat ∧
    (255 + 255 + 255 + 255) % 256 ≠ (framed #v[0xFF, 0xFF, 0xFF, 0xFF, 0xFF]).eng.frame[4].toNat := by decide

/-- FAILED with a line fault that holds the image `e`. -/
def faulted (e : ErrImage) : State := State.regs (ready .failed) ({ · with errcode := .linefault, lfinfo := some e })

theorem engine_inv_reset : Engine.reset.Inv := by
  constructor <;> simp [Engine.reset, Engine.busy, Upc.hasPhase, Phase.hasBitIndex, Engine.polling]

theorem engine_inv_faulted (e : ErrImage) : (faulted e).eng.Inv := by
  constructor <;> simp [faulted, State.regs, ready, standing, Engine.reset, Engine.busy, Upc.hasPhase, Phase.hasBitIndex,
    Engine.polling]

theorem faulted_inv (x : Config.ErrorValue) : (faulted (Config.errorImage x)).Inv where
  eng := engine_inv_faulted _
  info_fits := by intro e he; cases he; exact ⟨x, rfl⟩
  drives_fit := by intro a h; cases h
  reads_fit := by intro a h; cases h
  held_at := by intro r h; cases h
  turns_real := by intro t h; cases h

/-- Concrete states for the first three clauses, 32 being no less than `E_WIDTH`; and every value `E` may have is held by a
state that meets the invariant. -/
theorem test_meets_LfinfoReadsTheImage : State.reset.eng.lfinfo = none ∧ (faulted 0xE3).eng.lfinfo = some 0xE3 ∧
    (State.reset.Inv ∧ Config.eWidth.val ≤ 32) ∧ ∀ x : Config.ErrorValue, (faulted (Config.errorImage x)).Inv := by
  refine ⟨rfl, rfl, ⟨⟨engine_inv_reset, ?_, ?_, ?_, ?_, ?_⟩, ?_⟩, faulted_inv⟩
  · intro e h; cases h
  · intro e h; cases h
  · intro a h; cases h
  · intro a h; cases h
  · intro t h; cases h
  · have := Config.eWidth.isLt; omega

/-- A state with one turn of the host. -/
def turned (a : HostAct) : State := { State.reset with turns := [.host a] }

theorem test_meets_HostReadHasNoSideEffect :
    ((HostReg.ctrl, 0x00) ∈ ([(.ctrl, 0x00), (.status, 0x04), (.err, 0x08), (.lfinfo, 0x0C), (.hum, 0x10), (.temp, 0x14)] :
      List (HostReg × Nat)) ∧ (turned (.read 4 0x00)).turns = .host (.read 4 0x00) :: []) ∧
    ((HostReg.temp, 0x14) ∈ ([(.ctrl, 0x00), (.status, 0x04), (.err, 0x08), (.lfinfo, 0x0C), (.hum, 0x10), (.temp, 0x14)] :
      List (HostReg × Nat)) ∧ (turned (.read 4 0x14)).turns = .host (.read 4 0x14) :: []) := by decide

theorem test_meets_HostWriteElsewhereIsIgnored :
    (0x04 ∈ [0x04, 0x08, 0x0C, 0x10, 0x14] ∧ (turned (.write 4 0x04 5)).turns = .host (.write 4 0x04 5) :: []) ∧
    (0x14 ∈ [0x04, 0x08, 0x0C, 0x10, 0x14] ∧ (turned (.write 4 0x14 5)).turns = .host (.write 4 0x14 5) :: []) := by decide

theorem test_meets_UndefinedHostAccessIsRefused :
    ((2 ≠ 4 ∨ (0 ≠ 0 ∧ 0 ≠ 4)) ∧ (turned (.read 2 0)).turns = .host (.read 2 0) :: []) ∧
    ((24 ≠ 0 ∧ 24 ≠ 4 ∧ 24 ≠ 8 ∧ 24 ≠ 12 ∧ 24 ≠ 16 ∧ 24 ≠ 20) ∧
      (turned (.write 4 24 0)).turns = .host (.write 4 24 0) :: []) ∧
    (1 ≠ 0 ∧ 1 ≠ 4 ∧ 1 ≠ 8 ∧ 1 ≠ 12 ∧ 1 ≠ 16 ∧ 1 ≠ 20) := by decide

theorem test_meets_ResetOverridesEverything : (turned .reset).turns = .host .reset :: [] := rfl

/-- A state in which a reset has abandoned a request of each kind, and the answer to the `n`-th comes. -/
def lateTurned (n : Nat) : State := { State.reset with
  abandoned := [.line .rel, .line .low, .line .rd, .delay ⟨.us, 40⟩], turns := [.lateAnswer n] }

theorem test_meets_LateAnswerIsIgnored : (lateTurned 0).turns = .lateAnswer 0 :: [] ∧
    (lateTurned 0).abandoned[0]? = some (.line .rel) ∧ (lateTurned 1).abandoned[1]? = some (.line .low) ∧
    (lateTurned 2).abandoned[2]? = some (.line .rd) ∧ (lateTurned 3).abandoned[3]? = some (.delay ⟨.us, 40⟩) ∧
    (lateTurned 4).abandoned[4]? = none := by decide

/-- A state in which the engine is BUSY, with one turn of the host. -/
def busyTurned (a : HostAct) : State := { standing .u1 .handshaking [] [] with turns := [.host a] }

theorem test_meets_HostUsesTheCapabilitiesOnlyWhenFree :
    ((turned (.line .low)).turns = .host (.line .low) :: [] ∧ (turned (.line .low)).eng.bound = false) ∧
    ((busyTurned (.line .rd)).turns = .host (.line .rd) :: [] ∧ (busyTurned (.line .rd)).eng.bound = true) ∧
    ((turned (.delay ⟨.ms, 1⟩)).turns = .host (.delay ⟨.ms, 1⟩) :: [] ∧ (turned (.delay ⟨.ms, 1⟩)).eng.busy = false) ∧
    ((busyTurned (.delay ⟨.us, 1⟩)).turns = .host (.delay ⟨.us, 1⟩) :: [] ∧
      (busyTurned (.delay ⟨.us, 1⟩)).eng.busy = true) := by decide

theorem test_meets_StepRunsTheWrittenCommand : (turned (.write 4 0 2)).turns = .host (.write 4 0 2) :: [] := rfl

/-- A measurement just accepted, with the answers of V12 listed: 83 samples, each the target at once. -/
def shortest : State := standing .u1 .handshaking [.ok, .ok, .ok]
  ((List.replicate 41 [ReadAns.level .high, .level .low]).flatten ++ [.level .high])

/-- `shortest` with turns to come. -/
def shortestWith (ts : List Turn) : State := { shortest with turns := ts }

/-- The ways to give the engine its turn, both halves of a poll, and a request issued with none and with one held; the other positions differ only in `UPC`. -/
theorem test_meets_StepRunsTheMicroProgram : (standing .u3 .handshaking [] []).turns = [] ∧
    (standing .u3 .handshaking [] []).eng.upc = .u3 ∧ (shortestWith [.engine]).turns = .engine :: [] ∧
    ((shortestWith [.run]).turns = .run :: [] ∧ (shortestWith [.run]).eng.upc ≠ .u0) ∧
    (({ State.reset with turns := [.run] } : State).turns = .run :: [] ∧
      ({ State.reset with turns := [.run] } : State).eng.upc = .u0) ∧
    ((standing .u8 .bitreading [] []).eng.upc = .u8 ∧ (standing .u8 .bitreading [] []).eng.wps = .sample) ∧
    ((State.regs (standing .u8 .bitreading [] []) ({ · with wps := .delay })).eng.upc = .u8 ∧
      (State.regs (standing .u8 .bitreading [] []) ({ · with wps := .delay })).eng.wps = .delay) ∧
    ((shortestWith [.request]).turns = .request :: [] ∧ (shortestWith [.request]).held = none ∧
      ({ shortestWith [.request] with held := some (.line .rel) } : State).held = some (.line .rel)) := by decide

theorem test_meets_StepRunsThePlacedWord : decodeTableWord 8 0x06 = some .readBit ∧ decodeTableWord 32 3 = some .release ∧
    decodeTableWord 16 0x0E8 = some (.delayUs 40) := ⟨rfl, rfl, rfl⟩

theorem engine_inv_shortest : shortest.eng.Inv := by
  constructor <;> simp [shortest, standing, Engine.reset, Engine.busy, Upc.hasPhase, Phase.hasBitIndex, Engine.polling]

theorem level_fits {rs : List ReadAns} (h : ∀ a ∈ rs, a = .level .low ∨ a = .level .high) : ∀ a ∈ rs, a.Fits := by
  intro a ha
  rcases h a ha with rfl | rfl <;> trivial

theorem shortest_inv : shortest.Inv where
  eng := engine_inv_shortest
  info_fits := by intro e h; cases h
  drives_fit := by
    intro a ha
    have : a = .ok := by simpa [shortest, standing] using ha
    subst this; trivial
  reads_fit := level_fits (by decide)
  held_at := by intro r h; cases h
  turns_real := by intro t h; cases h

theorem shortestWith_inv (a : HostAct) : (shortestWith [.host a]).Inv where
  eng := engine_inv_shortest
  info_fits := shortest_inv.info_fits
  drives_fit := shortest_inv.drives_fit
  reads_fit := shortest_inv.reads_fit
  held_at := by intro r h; cases h
  turns_real := by intro t h; simp only [shortestWith, List.mem_singleton] at h; subst h; rfl

theorem test_meets_EveryStepKeepsTheInvariant : shortest.Inv ∧ ∃ t, step shortest = .next t := ⟨shortest_inv, _, rfl⟩

theorem turned_inv (a : HostAct) : (turned a).Inv where
  eng := engine_inv_reset
  info_fits := by intro e h; cases h
  drives_fit := by intro e h; cases h
  reads_fit := by intro e h; cases h
  held_at := by intro r h; cases h
  turns_real := by intro t h; simp only [turned, List.mem_singleton] at h; subst h; rfl

theorem test_meets_PhaseChangesOnlyAsTabled : ∃ t, (shortestWith [.host .reset]).Inv ∧
    step (shortestWith [.host .reset]) = .next t ∧ t.eng.ph ≠ (shortestWith [.host .reset]).eng.ph :=
  ⟨_, shortestWith_inv _, rfl, by decide⟩

theorem test_meets_EventsBelongToTheirPositions : ∃ t, shortest.Inv ∧ step shortest = .next t ∧
    t.events = [.rel .ok] := ⟨_, shortest_inv, rfl, rfl⟩

theorem test_meets_BoundIsWrittenOnlyByOwnershipCommands : ∃ t, (turned (.write 4 0 1)).Inv ∧
    step (turned (.write 4 0 1)) = .next t ∧ t.eng.bound ≠ (turned (.write 4 0 1)).eng.bound :=
  ⟨_, turned_inv _, rfl, by decide⟩

theorem test_meets_HostCannotDisturbAMeasurement : ∃ t, (shortestWith [.host (.write 4 0 2)]).Inv ∧
    (shortestWith [.host (.write 4 0 2)]).eng.busy = true ∧ HostAct.write 4 0 2 ≠ .reset ∧
    step (shortestWith [.host (.write 4 0 2)]) = .next t := ⟨_, shortestWith_inv _, rfl, by decide, rfl⟩

/-- DONE with the Measurement of the all-zero frame (V5). -/
def zeroDone : State := { ready .done with turns := [.host (.write 4 0 3)] }

theorem engine_inv_zeroDone : zeroDone.eng.Inv := by
  have hv : zeroDone.eng.ValidMeasurement := ⟨Vector.replicate 5 0, by decide, by decide, by decide⟩
  constructor <;> first | exact fun _ => hv | simp [zeroDone, ready, standing, Engine.reset, Engine.busy, Upc.hasPhase,
    Phase.hasBitIndex, Engine.polling]

theorem test_meets_MeasurementIsImmutable : ∃ t, zeroDone.Inv ∧ step zeroDone = .next t ∧ zeroDone.eng.ph = .done ∧
    t.eng.ph = .done := by
  refine ⟨_, ⟨engine_inv_zeroDone, ?_, ?_, ?_, ?_, ?_⟩, rfl, rfl, rfl⟩
  · intro e h; cases h
  · intro e h; cases h
  · intro a h; cases h
  · intro a h; cases h
  · intro t h; simp only [zeroDone, List.mem_singleton] at h; subst h; rfl

theorem test_meets_EveryMeasurementTerminates : shortest.Inv ∧ shortest.eng.busy = true ∧ shortest.turns = [] :=
  ⟨shortest_inv, rfl, rfl⟩

/-- V12: the shortest success, 89 events. -/
theorem test_meets_SuccessTakesAtLeast89Events : ∃ t, shortest.Inv ∧ shortest.eng.upc = .u1 ∧ shortest.turns = [] ∧
    core.run 91 shortest = .next t ∧ t.eng.ph = .done ∧ t.events.length = 89 :=
  ⟨_, shortest_inv, rfl, rfl, rfl, by decide, by decide⟩

/-- No turn listed, and a pulse-wait about to begin. -/
def waitBegins (s : State) : Bool :=
  decide (s.turns = []) && decide (s.eng.rbp = .lowph) && decide (s.eng.wps = .sample) && decide (s.eng.cnt = 0)

theorem test_meets_WaitPulseIsItsMicroSteps : waitBegins (standing .u9 .trailing [] []) = true ∧
    (standing .u9 .trailing [] []).eng.upc = .u9 := by decide

theorem test_meets_ReadBitIsItsMicroSteps : waitBegins (standing .u7 .handshaking [] []) = true ∧
    (standing .u7 .handshaking [] []).eng.upc = .u7 := by decide

theorem test_meets_BitLoopIsItsMicroSteps : waitBegins (standing .u8 .bitreading [] []) = true ∧
    (standing .u8 .bitreading [] []).eng.upc = .u8 ∧ (standing .u8 .bitreading [] []).eng.bitidx = 0 := by decide

theorem test_meets_TrailIsItsMicroSteps : waitBegins (standing .u9 .trailing [] []) = true ∧
    (standing .u9 .trailing [] []).eng.upc = .u9 := by decide

theorem test_meets_HandshakeIsItsMicroSteps : shortest.turns = [] ∧ shortest.eng.upc = .u1 := ⟨rfl, rfl⟩

/-- READY with the answers of a whole measurement: the acknowledgment, 40 bits with the counts `ps`, the last wait. -/
def answered (ps : List (Nat × Nat)) : State :=
  standing .u0 .idle [.ok, .ok, .ok] (bitSamples (0, 0) ++ ps.flatMap bitSamples ++ waitSamples .high 0 ++ [])

/-- Counts that give the frame [0x80, 0, 0, 0, 0]: its checksum byte is wrong. -/
def firstOne : List (Nat × Nat) := (0, 1) :: List.replicate 39 (0, 0)

/-- What `MeasurementDeliversTheFrame` asks of the state, with `n = 0` and nothing listed after. -/
def deliveryPremises (ps : List (Nat × Nat)) : Bool :=
  decide ((answered ps).turns = []) && (answered ps).eng.bound && !(answered ps).eng.busy && decide (ps.length = 40) &&
    ps.all (fun p => decide (p.1 ≤ 1000) && decide (p.2 ≤ 1000)) &&
    decide ((answered ps).env.drives = .ok :: .ok :: .ok :: [])

/-- A good and a bad checksum. -/
theorem test_meets_MeasurementDeliversTheFrame :
    (deliveryPremises (List.replicate 40 (0, 0)) = true ∧
      ∀ (i : Nat) (h : i < (List.replicate 40 ((0, 0) : Nat × Nat)).length),
        frameBit #v[0, 0, 0, 0, 0] i = decide ((List.replicate 40 (0, 0))[i].1 < (List.replicate 40 (0, 0))[i].2)) ∧
    (deliveryPremises firstOne = true ∧
      ∀ (i : Nat) (h : i < firstOne.length), frameBit #v[0x80, 0, 0, 0, 0] i = decide (firstOne[i].1 < firstOne[i].2)) ∧
    (answered firstOne).env.reads =
      bitSamples (0, 0) ++ firstOne.flatMap bitSamples ++ waitSamples .high 0 ++ [] := ⟨by decide, by decide, rfl⟩

theorem test_meets_DecodeOfEncodeIsTheOperation : (Instr.delayUs 63).wf = true ∧ (Instr.waitPulse .low).wf = true := by
  decide

theorem test_meets_DecoderFollowsTheOpcodeTable : 0xFFFFFFFF < 2 ^ 32 ∧ decode ⟨32, 0xFFFFFFFF⟩ = .ok .release ∧
    (OpcodeRow.mk "RELEASE" 32 0x3 0x3).matches ⟨32, 0xFFFFFFFF⟩ = true := ⟨by decide, rfl, by decide⟩

end Sys2Proof.Tests
end

/-! SUPPORT. The proofs of the statements about the state: the two halves of the invariant, what keeps them, and what a step
changes of the registers. -/

namespace Sys2Proof.Machine

/-! ## The fields of a frame are in range (44_field_extractor.md R122, R123) -/

/-- Temperature in tenths as a signed number: the 16 bits do not overflow. -/
theorem temperatureTenths_toInt (b2 b3 : Byte) : (temperatureTenths b2 b3).toInt =
    (if b2.getLsbD 7 then -1 else 1) * ((b2.toNat % 128 * 10 + b3.toNat : Nat) : Int) := by
  have hm := temperatureMagnitude_toNat b2 b3
  have h3 := b3.isLt
  unfold temperatureTenths
  split
  · rw [BitVec.toInt_neg_of_ne_intMin, BitVec.toInt_eq_toNat_of_lt]
    · omega
    · omega
    · intro h; rw [h] at hm; simp at hm; omega
  · rw [BitVec.toInt_eq_toNat_of_lt] <;> omega

theorem Engine.ValidMeasurement.in_range {e : Engine} (h : e.ValidMeasurement) :
    e.hum.toNat ≤ 2805 ∧ -1525 ≤ e.temp.toInt ∧ e.temp.toInt ≤ 1525 := by
  obtain ⟨f, -, hh, ht⟩ := h
  have h0 := f[0].isLt
  have h1 := f[1].isLt
  have h3 := f[3].isLt
  rw [hh, ht, humidityTenths_toNat, temperatureTenths_toInt]
  refine ⟨by omega, ?_⟩
  split <;> omega

/-! ## The invariant in its two halves: at rest and during a measurement -/

/-- What `Engine.Inv` says of an engine at rest (U0): nothing is left of a measurement but its result. -/
structure Engine.Resting (e : Engine) : Prop where
  upc : e.upc = .u0
  not_busy : e.busy = false
  frame : e.frame = Vector.replicate 5 0
  bitidx : e.bitidx = 0
  rbp : e.rbp = .lowph
  wps : e.wps = .sample
  cnt : e.cnt = 0
  lowcnt : e.lowcnt = 0
  done_valid : e.ph = .done → e.ValidMeasurement
  no_result : e.ph ≠ .done → e.hum = 0 ∧ e.temp = 0
  failed_iff : e.ph = .failed ↔ e.errcode ≠ .none
  linefault_iff : e.errcode = .linefault ↔ e.lfinfo ≠ none

/-- What `Engine.Inv` says of an engine at U1 to U11: it is owned, it holds no result, and its registers are as the
position says. -/
structure Engine.Measuring (e : Engine) : Prop where
  running : e.upc ≠ .u0
  bound : e.bound = true
  errcode : e.errcode = .none
  lfinfo : e.lfinfo = none
  hum : e.hum = 0
  temp : e.temp = 0
  cnt_le : e.cnt.toNat ≤ 1000
  lowcnt_le : e.lowcnt.toNat ≤ 1000
  phase_at : e.upc.hasPhase e.ph = true
  bitidx_at : e.ph.hasBitIndex e.bitidx.toNat = true
  sub_clear : e.polling = false → e.rbp = .lowph ∧ e.wps = .sample ∧ e.cnt = 0
  low_fresh : e.rbp = .lowph → e.lowcnt = 0
  trail_low : e.upc = .u9 → e.rbp = .lowph
  checked : e.upc = .u11 → checksumOk e.frame = true

theorem Engine.busy_eq_false_iff (e : Engine) : e.busy = false ↔ e.ph = .idle ∨ e.ph = .done ∨ e.ph = .failed := by
  unfold Engine.busy
  cases e.ph <;> simp

/-- The phases of U0 are those that are not BUSY (10_state.md R13, R24). -/
theorem Engine.upc_eq_u0_iff {e : Engine} (h : e.upc.hasPhase e.ph = true) : e.upc = .u0 ↔ e.busy = false := by
  rw [Engine.busy_eq_false_iff]
  cases hp : e.ph <;> cases hu : e.upc <;> simp_all [Upc.hasPhase]

theorem Engine.busy_of_running {e : Engine} (h : e.upc.hasPhase e.ph = true) (hu : e.upc ≠ .u0) : e.busy = true := by
  simpa using (Engine.upc_eq_u0_iff h).not.1 hu

theorem Engine.Inv.not_busy_of_unbound {e : Engine} (h : e.Inv) (hb : e.bound = false) : e.busy = false := by
  by_contra hbusy
  simp [h.busy_bound (by simpa using hbusy)] at hb

theorem Engine.Inv.resting {e : Engine} (h : e.Inv) (hu : e.upc = .u0) : e.Resting := by
  have hb : e.busy = false := (e.upc_eq_u0_iff h.phase_at).1 hu
  obtain ⟨hr, hw, hc⟩ := h.sub_clear (by simp [Engine.polling, hu])
  have hi : e.bitidx = 0 := by
    have := h.bitidx_at
    rcases e.busy_eq_false_iff.1 hb with hp | hp | hp <;> simpa [hp, Phase.hasBitIndex, ← BitVec.toNat_inj] using this
  exact ⟨hu, hb, (h.rest_clear hb).2, hi, hr, hw, hc, h.low_fresh hr, h.done_valid, h.no_result, h.failed_iff,
    h.linefault_iff⟩

theorem Engine.Resting.inv {e : Engine} (h : e.Resting) : e.Inv := by
  have hrange : e.hum.toNat ≤ 2805 ∧ -1525 ≤ e.temp.toInt ∧ e.temp.toInt ≤ 1525 := by
    by_cases hd : e.ph = .done
    · exact (h.done_valid hd).in_range
    · obtain ⟨hh, ht⟩ := h.no_result hd
      simp [hh, ht]
  exact {
    done_valid := h.done_valid
    no_result := h.no_result
    failed_iff := h.failed_iff
    linefault_iff := h.linefault_iff
    rest_clear := fun _ => ⟨h.upc, h.frame⟩
    busy_bound := by simp [h.not_busy]
    cnt_le := by simp [h.cnt]
    lowcnt_le := by simp [h.lowcnt]
    hum_le := hrange.1
    temp_ge := hrange.2.1
    temp_le := hrange.2.2
    phase_at := by
      rcases e.busy_eq_false_iff.1 h.not_busy with hp | hp | hp <;> simp [h.upc, hp, Upc.hasPhase]
    bitidx_at := by
      rcases e.busy_eq_false_iff.1 h.not_busy with hp | hp | hp <;> simp [h.bitidx, hp, Phase.hasBitIndex]
    sub_clear := fun _ => ⟨h.rbp, h.wps, h.cnt⟩
    low_fresh := fun _ => h.lowcnt
    trail_low := fun _ => h.rbp
    checked := by simp [h.upc] }

theorem Engine.Inv.measuring {e : Engine} (h : e.Inv) (hu : e.upc ≠ .u0) : e.Measuring := by
  have hb : e.busy = true := Engine.busy_of_running h.phase_at hu
  have hp := e.busy_iff.1 hb
  have herr : e.errcode = .none := by
    by_contra hne
    have := h.failed_iff.2 hne
    simp [this] at hp
  have hinfo : e.lfinfo = none := by
    by_contra hne
    have := h.linefault_iff.2 hne
    simp [this] at herr
  obtain ⟨hhum, htemp⟩ := h.no_result (by intro hd; simp [hd] at hp)
  exact { h with
    running := hu, bound := h.busy_bound hb, errcode := herr, lfinfo := hinfo, hum := hhum, temp := htemp }

theorem Engine.Measuring.inv {e : Engine} (h : e.Measuring) : e.Inv := by
  have hb : e.busy = true := Engine.busy_of_running h.phase_at h.running
  have hp := e.busy_iff.1 hb
  have hnd : e.ph ≠ .done := by intro hd; simp [hd] at hp
  have hnf : e.ph ≠ .failed := by intro hf; simp [hf] at hp
  exact { h with
    done_valid := fun hd => absurd hd hnd
    no_result := fun _ => ⟨h.hum, h.temp⟩
    failed_iff := by simp [hnf, h.errcode]
    linefault_iff := by simp [h.errcode, h.lfinfo]
    rest_clear := by simp [hb]
    busy_bound := fun _ => h.bound
    hum_le := by simp [h.hum]
    temp_ge := by simp [h.temp]
    temp_le := by simp [h.temp] }

/-! ## What keeps the invariant: the registers -/

theorem Engine.inv_reset : Engine.reset.Inv :=
  Engine.Resting.inv (by constructor <;> simp [Engine.reset, Engine.busy])

/-- An abort leaves an engine at rest, with an error code and no result (60_exceptions.md R147). -/
theorem Engine.inv_fail (x : Err) (e : Engine) : (e.fail x).Inv :=
  Engine.Resting.inv {
    upc := rfl, not_busy := rfl, frame := rfl, bitidx := rfl, rbp := rfl, wps := rfl, cnt := rfl, lowcnt := rfl
    done_valid := by simp
    no_result := by simp
    failed_iff := by simp [x.code_ne_none]
    linefault_iff := x.code_linefault_iff }

theorem Engine.Measuring.phase_of {e : Engine} {u : Upc} (h : e.Measuring) (hu : e.upc = u) : u.hasPhase e.ph = true :=
  hu ▸ h.phase_at

/-- `EXTRACT` at U11 leaves an engine at rest with the Measurement of a checked frame (44_field_extractor.md R120). -/
theorem Engine.Measuring.extract {e : Engine} (h : e.Measuring) (hu : e.upc = .u11) : e.extract.Resting where
  upc := rfl
  not_busy := rfl
  frame := rfl
  bitidx := rfl
  rbp := rfl
  wps := rfl
  cnt := rfl
  lowcnt := rfl
  done_valid _ := ⟨e.frame, h.checked hu, rfl, rfl⟩
  no_result := by simp
  failed_iff := by simp [h.errcode]
  linefault_iff := by simp [h.errcode, h.lfinfo]

/-- The positions before the bit reads: HANDSHAKING, and not polling (10_state.md R13). -/
def Upc.starting : Upc → Bool
  | .u1 | .u2 | .u3 | .u4 | .u5 | .u6 => true
  | .u0 | .u7 | .u8 | .u9 | .u10 | .u11 => false

/-- At U1 to U5 a primitive moves on by one position, and at U6 it also begins a bit read (41_handshake.md R93). -/
theorem Engine.proceed_cases {e : Engine} (hu : e.upc.starting = true) :
    (∃ u : Upc, u.starting = true ∧ e.proceed = { e with upc := u }) ∨ e.proceed = { e.beginBit with upc := .u7 } := by
  unfold Engine.proceed
  cases he : e.upc with
  | u1 => exact .inl ⟨.u2, rfl, rfl⟩
  | u2 => exact .inl ⟨.u3, rfl, rfl⟩
  | u3 => exact .inl ⟨.u4, rfl, rfl⟩
  | u4 => exact .inl ⟨.u5, rfl, rfl⟩
  | u5 => exact .inl ⟨.u6, rfl, rfl⟩
  | u6 => exact .inr rfl
  | u0 | u7 | u8 | u9 | u10 | u11 => simp [he, Upc.starting] at hu

theorem Engine.polling_of_starting {e : Engine} (hu : e.upc.starting = true) : e.polling = false := by
  cases he : e.upc <;> simp_all [Upc.starting, Engine.polling]

theorem Engine.Measuring.ph_of_starting {e : Engine} (h : e.Measuring) (hu : e.upc.starting = true) :
    e.ph = .handshaking := by
  have := h.phase_at
  cases he : e.upc <;> simp_all [Upc.starting, Upc.hasPhase]

theorem Engine.Measuring.proceed {e : Engine} (h : e.Measuring) (hu : e.upc.starting = true) : e.proceed.Measuring := by
  have hph := h.ph_of_starting hu
  have hsub := h.sub_clear (Engine.polling_of_starting hu)
  rcases Engine.proceed_cases hu with ⟨u, hu', he⟩ | he <;> rw [he]
  · exact { h with
      running := by rintro rfl; simp [Upc.starting] at hu'
      phase_at := by cases u <;> simp_all [Upc.starting, Upc.hasPhase]
      sub_clear := fun _ => hsub
      trail_low := fun _ => hsub.1
      checked := by rintro rfl; simp [Upc.starting] at hu' }
  · exact { h with
      running := by simp
      cnt_le := by simp
      phase_at := by simp [hph, Upc.hasPhase]
      sub_clear := fun _ => ⟨rfl, rfl, rfl⟩
      low_fresh := fun _ => h.low_fresh hsub.1
      trail_low := fun _ => rfl
      checked := by simp }

/-- The completion actions of a pulse-wait, by the position it is at (41_handshake.md R94, 42_pulse_bit_decoder.md R103,
R105, R107): the registers before, and the registers after. -/
inductive Engine.Completed (e : Engine) : Engine → Prop where
  | low : e.upc = .u7 ∨ e.upc = .u8 → e.rbp = .lowph → Completed e e.lowDone
  | ack : e.upc = .u7 → e.rbp = .highph → Completed e e.ackDone
  | more (b : Bool) : e.upc = .u8 → e.rbp = .highph → e.bitidx.toNat ≠ 39 →
      Completed e { e.endBit with frame := storeBit e.frame e.bitidx.toNat b, bitidx := e.bitidx + 1 }
  | last (b : Bool) : e.upc = .u8 → e.rbp = .highph → e.bitidx.toNat = 39 →
      Completed e { e.endBit with frame := storeBit e.frame 39 b, bitidx := 40, ph := .trailing, upc := .u9 }
  | trail : e.upc = .u9 → Completed e e.trailDone

/-- The inversion lemma of `waitDone` where the micro-program polls. -/
theorem Engine.waitDone_cases {e : Engine} (hp : e.polling = true) : e.Completed e.waitDone := by
  unfold Engine.waitDone
  rcases e.polling_iff.1 hp with hu | hu | hu <;> cases hr : e.rbp <;> simp only [hu, Engine.bitDone]
  · exact .low (.inl hu) hr
  · exact .ack hu hr
  · exact .low (.inr hu) hr
  · by_cases hi : e.bitidx.toNat = 39
    · rw [Engine.bitStored_last _ hi]
      exact .last _ hu hr hi
    · rw [Engine.bitStored_more _ hi]
      exact .more _ hu hr hi
  · exact .trail hu
  · exact .trail hu

theorem Engine.Measuring.endBit {e : Engine} (h : e.Measuring) : e.endBit.Measuring :=
  { h with
    cnt_le := by simp
    lowcnt_le := by simp
    sub_clear := fun _ => ⟨rfl, rfl, rfl⟩
    low_fresh := fun _ => rfl
    trail_low := fun _ => rfl }

/-- Every completion keeps what is true of a measurement. The `SAMPLE` sub-position matters at U9: U10 has no other. -/
theorem Engine.Completed.measuring {e e' : Engine} (hc : e.Completed e') (h : e.Measuring) (hw : e.wps = .sample) :
    e'.Measuring := by
  cases hc with
  | low hu hr =>
    exact { h with
      cnt_le := by simp
      lowcnt_le := h.cnt_le
      sub_clear := by rcases hu with hu | hu <;> simp [Engine.polling, hu]
      low_fresh := by simp
      trail_low := by rcases hu with hu | hu <;> simp [hu] }
  | ack hu hr =>
    exact { h.endBit with
      running := by simp
      phase_at := rfl
      bitidx_at := rfl
      sub_clear := fun _ => ⟨rfl, rfl, rfl⟩
      trail_low := fun _ => rfl
      checked := by simp }
  | more b hu hr hi =>
    have hph : e.ph = .bitreading := by simpa [Upc.hasPhase] using h.phase_of hu
    have hlt : e.bitidx.toNat < 40 := by simpa [hph, Phase.hasBitIndex] using h.bitidx_at
    have hadd : (e.bitidx + 1).toNat = e.bitidx.toNat + 1 := by bv_omega
    exact { h.endBit with
      bitidx_at := by
        simp only [Engine.endBit_ph, hph, Phase.hasBitIndex, hadd, decide_eq_true_eq]
        omega
      checked := by simp [hu] }
  | last b hu hr hi =>
    exact { h.endBit with
      running := by simp
      phase_at := rfl
      bitidx_at := rfl
      sub_clear := fun _ => ⟨rfl, rfl, rfl⟩
      trail_low := fun _ => rfl
      checked := by simp }
  | trail hu =>
    have hph : e.ph = .trailing := by simpa [Upc.hasPhase] using h.phase_of hu
    exact { h with
      running := by simp
      cnt_le := by simp
      phase_at := rfl
      bitidx_at := by simpa [hph, Phase.hasBitIndex] using h.bitidx_at
      sub_clear := fun _ => ⟨h.trail_low hu, hw, rfl⟩
      trail_low := fun _ => h.trail_low hu
      checked := by simp }

theorem Engine.Measuring.polled {e : Engine} (h : e.Measuring) (hp : e.polling = true) :
    { e with wps := .sample }.Measuring :=
  { h with sub_clear := fun hp' => absurd (hp.symm.trans hp') (by simp) }

theorem Engine.Measuring.countMiss {e : Engine} (h : e.Measuring) (hp : e.polling = true) (hc : e.cnt.toNat < 1000) :
    e.countMiss.Measuring :=
  { h with
    cnt_le := by simp only [Engine.countMiss_cnt]; bv_omega
    sub_clear := fun hp' => absurd (hp.symm.trans hp') (by simp) }

/-- `CRC_CHECK` at U10 with a right checksum (43_crc8_validator.md R115). -/
theorem Engine.Measuring.checksumRight {e : Engine} (h : e.Measuring) (hu : e.upc = .u10)
    (hc : checksumOk e.frame = true) : { e with upc := .u11 }.Measuring :=
  { h with
    running := by simp
    phase_at := by simpa [Upc.hasPhase] using h.phase_of hu
    sub_clear := fun _ => h.sub_clear (by simp [Engine.polling, hu])
    trail_low := by simp
    checked := fun _ => hc }

/-- Every micro-step keeps the invariant of the registers (10_state.md R33). -/
theorem Engine.Micro.inv {e e' : Engine} {ev : Option Event} (hm : e.Micro ev e') (h : e.Inv) (hu : e.upc ≠ .u0) :
    e'.Inv := by
  have hM := h.measuring hu
  cases hm with
  | rel hu => exact (hM.proceed (by rcases hu with hu | hu <;> simp [hu, Upc.starting])).inv
  | low hu | settle hu | start hu | wait hu => exact (hM.proceed (by simp [hu, Upc.starting])).inv
  | relErr | lowErr | timeout | readErr | crcBad => exact Engine.inv_fail _ e
  | poll hp => exact (hM.polled hp).inv
  | hit hp hw => exact ((Engine.waitDone_cases hp).measuring hM hw).inv
  | miss hp _ hc => exact (hM.countMiss hp hc).inv
  | crcOk hu hc => exact (hM.checksumRight hu hc).inv
  | extract hu => exact (hM.extract hu).inv

/-- Every host command keeps the invariant of the registers (40_host_commands.md R81 to R85). -/
theorem Engine.Commanded.inv {e e' : Engine} {code : Nat} (hc : e.Commanded code e') (h : e.Inv) : e'.Inv := by
  have hrest (hb : e.busy = false) : e.Resting := h.resting ((e.upc_eq_u0_iff h.phase_at).2 hb)
  cases hc with
  | nop => exact h
  | construct _ hb =>
    exact Engine.Resting.inv { hrest (h.not_busy_of_unbound hb) with
      not_busy := rfl
      done_valid := by simp
      no_result := by simp
      failed_iff := by simp
      linefault_iff := by simp }
  | measure _ hb =>
    exact Engine.Measuring.inv {
      running := by simp, bound := hb, errcode := rfl, lfinfo := rfl, hum := rfl, temp := rfl
      cnt_le := by simp, lowcnt_le := by simp, phase_at := rfl, bitidx_at := rfl
      sub_clear := by simp, low_fresh := by simp, trail_low := by simp, checked := by simp }
  | release _ _ hbusy => exact Engine.Resting.inv { hrest hbusy with }
  | refused => exact { h with }

/-! ## What keeps the invariant: the whole machine -/

theorem Engine.proceed_ph (e : Engine) : e.proceed.ph = e.ph := by rw [e.proceed_frame]

theorem Engine.proceed_bound (e : Engine) : e.proceed.bound = e.bound := by rw [e.proceed_frame]

theorem Engine.proceed_lfinfo (e : Engine) : e.proceed.lfinfo = e.lfinfo := by rw [e.proceed_frame]

theorem Engine.Completed.lfinfo {e e' : Engine} (hc : e.Completed e') : e'.lfinfo = e.lfinfo := by
  cases hc <;> rfl

/-- A micro-step leaves in `LFINFO` what was there, nothing, or the error value that its event carries
(45_line_and_delay_primitives.md R136). -/
theorem Engine.Micro.info_fits {e e' : Engine} {ev : Option Event} (hm : e.Micro ev e')
    (h : ∀ x, e.lfinfo = some x → imageFits x) (hev : ∀ y, ev = some y → y.Fits) :
    ∀ x, e'.lfinfo = some x → imageFits x := by
  cases hm with
  | rel | low | settle | start | wait => rw [Engine.proceed_lfinfo]; exact h
  | relErr | lowErr | readErr => rintro _ ⟨⟩; exact hev _ rfl
  | hit hp => rw [(Engine.waitDone_cases hp).lfinfo]; exact h
  | poll | miss | crcOk | extract => exact h
  | timeout | crcBad => rintro _ ⟨⟩

theorem Engine.Commanded.info_fits {e e' : Engine} {code : Nat} (hc : e.Commanded code e')
    (h : ∀ x, e.lfinfo = some x → imageFits x) : ∀ x, e'.lfinfo = some x → imageFits x := by
  cases hc with
  | nop | release | refused => exact h
  | construct | measure => rintro _ ⟨⟩

/-- While a request can be outstanding, a host command does not change it: the engine is BUSY, and accepts none
(40_host_commands.md R80). -/
theorem Engine.Commanded.request {e e' : Engine} {code : Nat} {r : PortReq} (hc : e.Commanded code e') (h : e.Inv)
    (hr : e.request = some r) : e'.request = some r := by
  have hu : e.upc ≠ .u0 := by intro hu; simp [Engine.request_rest hu] at hr
  have hM := h.measuring hu
  have hb : e.busy = true := Engine.busy_of_running h.phase_at hu
  cases hc with
  | nop => exact hr
  | construct _ hnb => simp [hM.bound] at hnb
  | measure _ _ hnb | release _ _ hnb => simp [hb] at hnb
  | refused => exact hr

/-- No operation issued by name is among the turns of the hardware (log entry 9). -/
theorem State.Inv.no_issue {s : State} {i : Instr} {ts : List Turn} (h : s.Inv) : s.turns ≠ .issue i :: ts := by
  intro hts
  have := h.turns_real (.issue i) (by simp [hts])
  simp [Turn.isReal] at this

/-- Every step keeps the invariant: each of the ways in `step_cases` does. -/
theorem State.Inv.of_step {s t : State} (h : s.Inv) (hs : step s = .next t) : t.Inv := by
  have hno {i : Instr} {ts : List Turn} : s.turns ≠ .issue i :: ts := h.no_issue
  obtain ⟨heng, hinfo, hdrives, hreads, hheld, hturns⟩ := h
  have htail {x : Turn} {ts : List Turn} (hts : s.turns = x :: ts) : ∀ y ∈ ts, y.isReal = true :=
    fun y hy => hturns y (by simp [hts, hy])
  cases step_cases hs with
  | quiet he hv _ hp ht =>
    exact ⟨he ▸ heng, he ▸ hinfo, hv ▸ hdrives, hv ▸ hreads, fun r hr => he ▸ (hp r hr).elim (hheld r) id,
      fun x hx => hturns x (ht x hx)⟩
  | line _ ts hts _ he hv _ hp ht | late _ ts hts he hv _ hp ht =>
    obtain ⟨hd', hr'⟩ := hv.fits hdrives hreads
    exact ⟨he ▸ heng, he ▸ hinfo, hd', hr', he ▸ hp ▸ hheld, ht ▸ htail hts⟩
  | micro ev _ hu hm _ hv ht _ hp hfit =>
    obtain ⟨hd', hr'⟩ := hv.fits hdrives hreads
    exact ⟨hm.inv heng hu, hm.info_fits hinfo fun y hy => hfit y hy hdrives hreads, hd', hr', by simp [hp],
      fun x hx => hturns x (ht x hx)⟩
  | command v ts e hts hc ht =>
    subst ht
    exact ⟨hc.inv heng, hc.info_fits hinfo, hdrives, hreads, fun r hr => hc.request heng (hheld r hr), htail hts⟩
  | reset ts hts ht =>
    subst ht
    exact ⟨Engine.inv_reset, by simp [Engine.reset], hdrives, hreads, by simp, htail hts⟩
  | issue i ts hts => exact absurd hts hno

/-! ## What a step leaves unchanged -/

theorem Engine.Completed.bound {e e' : Engine} (hc : e.Completed e') : e'.bound = e.bound := by
  cases hc <;> rfl

/-- No micro-step writes `BOUND` (10_state.md R11). -/
theorem Engine.Micro.bound {e e' : Engine} {ev : Option Event} (hm : e.Micro ev e') : e'.bound = e.bound := by
  cases hm with
  | rel | low | settle | start | wait => exact e.proceed_bound
  | relErr | lowErr | timeout | readErr | crcBad | poll | miss | crcOk | extract => rfl
  | hit hp => exact (Engine.waitDone_cases hp).bound

/-- The positions that issue a request are those of HANDSHAKING, BITREADING and TRAILING (10_state.md R13). -/
theorem Engine.Measuring.ph_of_requesting {e : Engine} (h : e.Measuring) (hu : e.upc ≠ .u10 ∧ e.upc ≠ .u11) :
    e.ph = .handshaking ∨ e.ph = .bitreading ∨ e.ph = .trailing := by
  have hr := h.running
  have hp := h.phase_at
  cases he : e.upc <;> simp_all [Upc.hasPhase]

/-- The rows of 10_state.md R12 that a micro-step makes: the registers before, the event issued if any, and the registers
after. -/
inductive Engine.Moved (e : Engine) : Option Event → Engine → Prop where
  | acknowledged (e' : Engine) : e.ph = .handshaking → e.upc = .u7 → e.rbp = .highph → e'.ph = .bitreading →
      Moved e (some (.rd (.level .low))) e'
  | filled (e' : Engine) : e.ph = .bitreading → e.upc = .u8 → e.rbp = .highph → e.bitidx = 39 → e'.bitidx = 40 →
      e'.ph = .trailing → Moved e (some (.rd (.level .low))) e'
  | trailed (e' : Engine) : e.ph = .trailing → e.upc = .u9 → e'.ph = .checksum → Moved e (some (.rd (.level .high))) e'
  | delivered : e.ph = .checksum → e.upc = .u11 → checksum e.frame = e.frame[4] → Moved e none e.extract
  | mismatched : e.ph = .checksum → e.upc = .u10 → checksum e.frame ≠ e.frame[4] → Moved e none (e.fail .crcMismatch)
  | timedOut : (e.ph = .handshaking ∨ e.ph = .bitreading ∨ e.ph = .trailing) → e.cnt.toNat = 1000 →
      Moved e (some (.rd (.level e.target.other))) (e.fail .timeout)
  | faulted (x : ErrImage) (ev : Event) : (e.ph = .handshaking ∨ e.ph = .bitreading ∨ e.ph = .trailing) →
      (ev = .rel (.err x) ∨ ev = .low (.err x) ∨ ev = .rd (.err x)) → Moved e (some ev) (e.fail (.lineFault x))

/-- A wait aborts with `Timeout` in its 1001st sample, at `CNT = 1000` (42_pulse_bit_decoder.md R102). -/
theorem Engine.Measuring.cnt_eq_limit {e : Engine} (h : e.Measuring) (hc : 1000 ≤ e.cnt.toNat) : e.cnt.toNat = 1000 :=
  Nat.le_antisymm h.cnt_le hc

/-- The completed waits that change `PH` end the acknowledgment, the 40th bit or the trailing pulse, each with the level it
waited for. -/
theorem Engine.Completed.moved {e e' : Engine} (hc : e.Completed e') (h : e.Measuring) (hne : e'.ph ≠ e.ph) :
    e.Moved (some (.rd (.level e.target))) e' := by
  cases hc with
  | low | more => exact absurd rfl hne
  | ack hu hr =>
    have ht : e.target = .low := by simp [Engine.target, hr]
    exact ht ▸ .acknowledged _ (by simpa [Upc.hasPhase] using h.phase_of hu) hu hr rfl
  | last b hu hr hi =>
    have ht : e.target = .low := by simp [Engine.target, hr]
    exact ht ▸ .filled _ (by simpa [Upc.hasPhase] using h.phase_of hu) hu hr (BitVec.eq_of_toNat_eq hi) rfl rfl
  | trail hu =>
    have ht : e.target = .high := by simp [Engine.target, h.trail_low hu]
    exact ht ▸ .trailed _ (by simpa [Upc.hasPhase] using h.phase_of hu) hu rfl

/-- The inversion lemma of a micro-step that changes `PH`. -/
theorem Engine.Micro.moved {e e' : Engine} {ev : Option Event} (hm : e.Micro ev e') (h : e.Measuring)
    (hne : e'.ph ≠ e.ph) : e.Moved ev e' := by
  have hpoll (hp : e.polling = true) : e.ph = .handshaking ∨ e.ph = .bitreading ∨ e.ph = .trailing :=
    h.ph_of_requesting (by rcases e.polling_iff.1 hp with hu | hu | hu <;> simp [hu])
  cases hm with
  | rel | low | settle | start | wait => exact absurd e.proceed_ph hne
  | poll | miss | crcOk => exact absurd rfl hne
  | hit hp => exact (Engine.waitDone_cases hp).moved h hne
  | relErr x hu =>
    exact .faulted x _ (h.ph_of_requesting (by rcases hu with hu | hu <;> simp [hu])) (.inl rfl)
  | lowErr x hu => exact .faulted x _ (h.ph_of_requesting (by simp [hu])) (.inr (.inl rfl))
  | readErr x hp => exact .faulted x _ (hpoll hp) (.inr (.inr rfl))
  | timeout hp _ hc => exact .timedOut (hpoll hp) (h.cnt_eq_limit hc)
  | crcBad hu hc =>
    exact .mismatched (by simpa [Upc.hasPhase] using h.phase_of hu) hu (by simpa [checksumOk] using hc)
  | extract hu =>
    exact .delivered (by simpa [Upc.hasPhase] using h.phase_of hu) hu (by simpa [checksumOk] using h.checked hu)

/-! ## The host registers and the turns -/

/-- `STATUS` (10_state.md R27) with its width written as the sum of its fields' widths, so that the library's lemmas on
appended words apply to it. -/
def Engine.statusFields (e : Engine) : BitVec (10 + 6 + 5 + 3 + 3 + 1 + 1 + 1 + 1 + 1) :=
  0#10 ++ e.bitidx ++ 0#5 ++ e.ph.code ++ 0#3 ++ BitVec.ofBool e.cmdref ++ BitVec.ofBool e.failFlag ++
    BitVec.ofBool e.doneFlag ++ BitVec.ofBool e.busy ++ BitVec.ofBool e.bound

theorem Engine.readReg_status (e : Engine) : e.readReg .status = e.statusFields := rfl

/-- The one-bit fields of `STATUS`. -/
theorem Engine.statusFields_getLsbD (e : Engine) :
    e.statusFields.getLsbD 0 = e.bound ∧ e.statusFields.getLsbD 1 = e.busy ∧
    e.statusFields.getLsbD 2 = e.doneFlag ∧ e.statusFields.getLsbD 3 = e.failFlag ∧
    e.statusFields.getLsbD 4 = e.cmdref := by
  simp only [Engine.statusFields, BitVec.getLsbD_append]
  simp

/-- The wider fields of `STATUS`: each is found by passing over the fields below it. -/
theorem Engine.statusFields_extractLsb' (e : Engine) :
    e.statusFields.extractLsb' 5 3 = 0#3 ∧ e.statusFields.extractLsb' 8 3 = e.ph.code ∧
    e.statusFields.extractLsb' 11 5 = 0#5 ∧ e.statusFields.extractLsb' 16 6 = e.bitidx ∧
    e.statusFields.extractLsb' 22 10 = 0#10 := by
  simp only [Engine.statusFields, BitVec.extractLsb'_append_eq_of_le, BitVec.extractLsb'_append_eq_right,
    BitVec.extractLsb'_eq_self, Nat.reduceLeDiff, Nat.reduceSub, and_self]

theorem engineStep_micro {s : State} {i : Instr} (h : s.eng.microOp = some i) :
    engineStep s = exec i { s with held := none } := by
  simp only [engineStep, h, State.answered]

/-- The operation at a known position. -/
theorem Engine.microOp_at {e : Engine} {u : Upc} (hu : e.upc = u) : e.microOp = { e with upc := u }.microOp := by
  rw [← hu]

theorem Engine.microOp_sample {e : Engine} (hu : e.upc = .u7 ∨ e.upc = .u8 ∨ e.upc = .u9) (hw : e.wps = .sample) :
    e.microOp = some .readLine := by
  rcases hu with hu | hu | hu <;> simp [Engine.microOp, hu, hw]

theorem Engine.microOp_delay {e : Engine} (hu : e.upc = .u7 ∨ e.upc = .u8 ∨ e.upc = .u9) (hw : e.wps = .delay) :
    e.microOp = some (.delayUs 1) := by
  rcases hu with hu | hu | hu <;> simp [Engine.microOp, hu, hw]

/-- Whoever gives the engine its turn, the step is the micro-step of the same engine; `RUN` at rest does nothing, as the
engine itself does there. -/
theorem step_eq_engineStep {s t : State}
    (h : (s.turns = [] ∧ t = s) ∨ (∃ ts, s.turns = .engine :: ts ∧ t = { s with turns := ts }) ∨
      (∃ ts, s.turns = .run :: ts ∧ s.eng.upc ≠ .u0 ∧ t = s) ∨
      (∃ ts, s.turns = .run :: ts ∧ s.eng.upc = .u0 ∧ t = { s with turns := ts })) :
    t.eng = s.eng ∧ step s = engineStep t := by
  rcases h with ⟨hts, rfl⟩ | ⟨ts, hts, rfl⟩ | ⟨ts, hts, hu, rfl⟩ | ⟨ts, hts, hu, rfl⟩
  · exact ⟨rfl, step_free hts⟩
  · exact ⟨rfl, by simp only [step, takeTurn, hts]⟩
  · exact ⟨rfl, by simp only [step, takeTurn, hts, hu, if_false]⟩
  · refine ⟨rfl, ?_⟩
    rw [engineStep_rest { s with turns := ts } hu]
    simp only [step, takeTurn, hts, hu, if_true]

/-- The decoder reads in a 32-bit word the command that a write of it to `CTRL` presents (30_encoding.md R65). -/
theorem decode_word (v : Word) : decode ⟨32, v.toNat⟩ = .ok (commandOf v) := by
  simp only [decode, BitVec.ofNat_toNat, BitVec.setWidth_eq, Nat.not_le.2 v.isLt, if_false]

end Sys2Proof.Machine

namespace Sys2Proof.Proofs

open Sys2Proof.Machine

/-- Settles O43: a step is one of the ways of `step_cases`, and each keeps the invariant. -/
theorem everyStepKeepsTheInvariant : Obligations.EveryStepKeepsTheInvariant :=
  fun _ _ h hs => h.of_step hs

/-- Settles O44: rest, host reads and requests leave `PH` alone; what is left is the host's reset and commands, and the
micro-steps that complete a wait, check the frame or abort. -/
theorem phaseChangesOnlyAsTabled : Obligations.PhaseChangesOnlyAsTabled := by
  intro s t h hs hne
  cases step_cases hs with
  | quiet he | line _ _ _ _ he | late _ _ _ he => exact absurd (congrArg Engine.ph he) hne
  | reset ts hts ht => exact .inl ⟨ts, hts, by rw [ht]; rfl⟩
  | issue i ts hts => exact absurd hts h.no_issue
  | command v ts e hts hc ht =>
    subst ht
    cases hc with
    | nop | release | refused => exact absurd rfl hne
    | construct hv hb =>
      have hph := s.eng.busy_eq_false_iff.1 (h.eng.not_busy_of_unbound hb)
      exact .inr (.inl ⟨ts, v, hts, hv, hb, hph.resolve_left fun hi => hne hi.symm, rfl⟩)
    | measure hv hb hbusy =>
      exact .inr (.inr (.inl ⟨ts, v, hts, hv, hb, s.eng.busy_eq_false_iff.1 hbusy, rfl⟩))
  | micro ev _ hu hm hev =>
    have hmoved := hm.moved (h.eng.measuring hu) hne
    generalize t.eng = e' at hmoved ⊢
    refine .inr (.inr (.inr ?_))
    cases hmoved with
    | acknowledged _ hp hu hr hp' => exact .inl ⟨hp, hu, hr, hev, hp'⟩
    | filled _ hp hu hr hi hi' hp' => exact .inr (.inl ⟨hp, hu, hr, hi, hev, hi', hp'⟩)
    | trailed _ hp hu hp' => exact .inr (.inr (.inl ⟨hp, hu, hev, hp'⟩))
    | delivered hp hu hc => exact .inr (.inr (.inr (.inl ⟨hp, hu, hc, rfl, rfl, rfl⟩)))
    | mismatched hp hu hc => exact .inr (.inr (.inr (.inr (.inl ⟨hp, hu, hc, rfl, rfl⟩))))
    | timedOut hp hc => exact .inr (.inr (.inr (.inr (.inr ⟨hp, rfl, .inl ⟨rfl, hc, hev⟩⟩))))
    | faulted x ev hp hx =>
      refine .inr (.inr (.inr (.inr (.inr ⟨hp, rfl, .inr ⟨x, rfl, rfl, ?_⟩⟩))))
      rcases hx with rfl | rfl | rfl
      · exact .inl hev
      · exact .inr (.inl hev)
      · exact .inr (.inr hev)

/-- Settles O32: the invariant makes a value held the image of a value of `E`. -/
theorem lfinfoReadsTheImage : Obligations.LfinfoReadsTheImage := by
  intro s
  have hnone (h : s.eng.lfinfo = none) : s.eng.readReg .lfinfo = 0 := by
    simp only [Engine.readReg, Engine.lfinfoWord, h]
  have hsome (e : ErrImage) (h : s.eng.lfinfo = some e) : s.eng.readReg .lfinfo = e := by
    simp only [Engine.readReg, Engine.lfinfoWord, h]
  refine ⟨hnone, hsome, fun hInv k hk => ?_, errorImage_injective⟩
  cases h : s.eng.lfinfo with
  | none => simp [hnone h]
  | some e => rw [hsome e h]; exact imageFits_high (hInv.info_fits e h) k hk

/-- Settles O46: no micro-step writes `BOUND`, and of the host's turns only a reset and the two ownership commands do. -/
theorem boundIsWrittenOnlyByOwnershipCommands : Obligations.BoundIsWrittenOnlyByOwnershipCommands := by
  intro s t h hs hne
  cases step_cases hs with
  | quiet he | line _ _ _ _ he | late _ _ _ he => exact absurd (congrArg Engine.bound he) hne
  | micro _ _ _ hm => exact absurd hm.bound hne
  | reset ts hts ht => exact .inl ⟨ts, hts, by rw [ht]; rfl⟩
  | issue i ts hts => exact absurd hts h.no_issue
  | command v ts e hts hc ht =>
    subst ht
    cases hc with
    | nop | measure | refused => exact absurd rfl hne
    | construct hv => exact .inr (.inl ⟨ts, v, hts, hv, rfl⟩)
    | release hv _ hbusy => exact .inr (.inr ⟨ts, v, hts, hv, hbusy, rfl⟩)

/-- Settles O48: at DONE the engine is at rest, and a command that keeps it there keeps the result. -/
theorem measurementIsImmutable : Obligations.MeasurementIsImmutable := by
  intro s t h hs hd hd'
  cases step_cases hs with
  | quiet he | line _ _ _ _ he | late _ _ _ he => exact ⟨congrArg Engine.hum he, congrArg Engine.temp he⟩
  | micro _ _ hu =>
    have hb : s.eng.busy = false := s.eng.busy_eq_false_iff.2 (.inr (.inl hd))
    exact absurd ((s.eng.upc_eq_u0_iff h.eng.phase_at).2 hb) hu
  | reset ts hts ht =>
    subst ht
    cases hd'
  | issue i ts hts => exact absurd hts h.no_issue
  | command v ts e hts hc ht =>
    subst ht
    cases hc with
    | nop | release | refused => exact ⟨rfl, rfl⟩
    | construct | measure => cases hd'

/-- Settles O30, field by field of `STATUS`. -/
theorem statusShowsItsFields : Obligations.StatusShowsItsFields := by
  intro e
  obtain ⟨hbound, hbusy, hdone, hfail, hcmdref⟩ := e.statusFields_getLsbD
  obtain ⟨h5, hph, h11, hidx, h22⟩ := e.statusFields_extractLsb'
  refine ⟨hbound, ?_, ?_, ?_, hcmdref, h5, hph.trans ?_, h11, hidx, h22⟩
  · rw [e.readReg_status, hbusy, e.busy_iff]
  · rw [e.readReg_status, hdone, Engine.doneFlag, decide_eq_true_eq]
  · rw [e.readReg_status, hfail, Engine.failFlag, decide_eq_true_eq]
  · cases e.ph <;> rfl

/-- Settles O31: neither extension to 32 bits loses a value. -/
theorem resultRegistersReadTheirValues : Obligations.ResultRegistersReadTheirValues := by
  intro e
  have hhum := e.hum.isLt
  refine ⟨rfl, ?_, ?_, ?_⟩
  · simp only [Engine.readReg, Engine.errWord]
    cases e.errcode <;> rfl
  · exact BitVec.toNat_setWidth_of_le (by omega)
  · exact BitVec.toInt_signExtend_of_le (by omega)

/-- Settles O36: the turn is `State.applyReset`. -/
theorem resetOverridesEverything : Obligations.ResetOverridesEverything := by
  intro s ts hts
  simp only [step, takeTurn, hts]
  rfl

/-- Settles O37, by evaluation at the one state it speaks of. -/
theorem afterResetAllRegistersReadZero : Obligations.AfterResetAllRegistersReadZero := by
  refine ⟨fun r => ?_, rfl, rfl⟩
  cases r <;> rfl

/-- Settles O39: the decoder and the host port read the same two bits. -/
theorem stepRunsTheWrittenCommand : Obligations.StepRunsTheWrittenCommand := by
  intro s v ts hts
  refine ⟨commandOf v, decode_word v, ?_⟩
  simp only [step, takeTurn, hts]
  rfl

/-- Settles O40: both halves look up the operation at the position, and a request is that operation's. -/
theorem stepRunsTheMicroProgram : Obligations.StepRunsTheMicroProgram := by
  refine ⟨fun s t ht => ?_, fun s ts hts => ⟨s.held.or s.eng.request, ?_, fun r hr => by simp [hr], fun hh => ?_⟩⟩
  · obtain ⟨heng, hstep⟩ := step_eq_engineStep ht
    have hrun {i : Instr} (hi : s.eng.microOp = some i) : step s = exec i { t with held := none } :=
      hstep.trans (engineStep_micro (heng ▸ hi))
    have hat {u : Upc} {i : Instr} (hu : s.eng.upc = u) (hi : { s.eng with upc := u }.microOp = some i) :
        step s = exec i { t with held := none } := hrun ((Engine.microOp_at hu).trans hi)
    exact ⟨fun hu => hstep.trans (engineStep_rest t (heng ▸ hu)), (hat · rfl), (hat · rfl), (hat · rfl), (hat · rfl),
      (hat · rfl), (hat · rfl), fun hu hw => hrun (Engine.microOp_sample hu hw),
      fun hu hw => hrun (Engine.microOp_delay hu hw), (hat · rfl), (hat · rfl)⟩
  · simp only [step, takeTurn, hts, State.issueRequest_eq]
  · have hreq {o : Option Instr} (ho : s.eng.microOp = o) : s.held.or s.eng.request = o.bind requestOf := by
      rw [hh, Option.none_or, Engine.request, ho]
    have hat {u : Upc} (hu : s.eng.upc = u) : s.held.or s.eng.request = { s.eng with upc := u }.request :=
      hreq (Engine.microOp_at hu)
    refine ⟨?_, ?_, hat, hat, hat, hat, fun hu hw => hreq (Engine.microOp_sample hu hw),
      fun hu hw => hreq (Engine.microOp_delay hu hw)⟩
    · rintro (hu | hu | hu) <;> exact hat hu
    · rintro (hu | hu) <;> exact hat hu

/-- Settles O42: reset leaves an engine at rest, and lists nothing. -/
theorem invariantHoldsAtReset : Obligations.InvariantHoldsAtReset where
  eng := Engine.inv_reset
  info_fits := by rintro _ ⟨⟩
  drives_fit := by rintro _ ⟨⟩
  reads_fit := by rintro _ ⟨⟩
  held_at := by rintro _ ⟨⟩
  turns_real := by rintro _ ⟨⟩

end Sys2Proof.Proofs

/-! SUPPORT. The proofs of the statements about the frame buffer and the bus side: what a turn of the host can do, said once,
and forty bit reads in a row. -/

namespace Sys2Proof.Machine

/-! ## The host's accesses to the register map (20_memory.md R45, R46) -/

/-- A turn of the host is a step of the host, on the state with that turn used up. -/
theorem step_host {s : State} {a : HostAct} {ts : List Turn} (hts : s.turns = .host a :: ts) :
    step s = hostStep a { s with turns := ts } := by
  simp only [step, takeTurn, hts]

theorem HostReg.at_offset (r : HostReg) : HostReg.at r.offset = some r := HostReg.at_eq_some.2 rfl

/-- The offsets that are no register's. -/
theorem HostReg.at_eq_none {off : Nat} (h : off ≠ 0 ∧ off ≠ 4 ∧ off ≠ 8 ∧ off ≠ 12 ∧ off ≠ 16 ∧ off ≠ 20) :
    HostReg.at off = none := by
  refine Option.eq_none_iff_forall_ne_some.2 fun r hr => ?_
  have hoff := HostReg.at_eq_some.1 hr
  cases r <;> simp [HostReg.offset] at hoff <;> omega

/-- An access is to one of the six registers, or it is undefined. -/
theorem hostAccess_cases (bytes off : Nat) :
    (∃ r : HostReg, bytes = 4 ∧ off = r.offset) ∨ bytes ≠ 4 ∨ HostReg.at off = none := by
  by_cases hb : bytes = 4
  · cases hr : HostReg.at off with
    | some r => exact .inl ⟨r, hb, HostReg.at_eq_some.1 hr⟩
    | none => exact .inr (.inr rfl)
  · exact .inr (.inl hb)

theorem hostRead_reg (r : HostReg) (s : State) :
    hostRead 4 r.offset s = .next (s.give (.data r.offset (s.eng.readReg r))) := by
  simp [hostRead, HostReg.at_offset]

theorem hostRead_undefined {bytes off : Nat} (s : State) (h : bytes ≠ 4 ∨ HostReg.at off = none) :
    hostRead bytes off s = .refused .hostAccess := by
  rcases h with h | h <;> simp [hostRead, h]

theorem hostWrite_ctrl (v : Word) (s : State) : hostWrite 4 0 v s = exec (commandOf v) s := rfl

theorem hostWrite_ignored {r : HostReg} (hr : r ≠ .ctrl) (v : Word) (s : State) :
    hostWrite 4 r.offset v s = .next s := by
  cases r with
  | ctrl => exact absurd rfl hr
  | status | err | lfinfo | hum | temp => rfl

theorem hostWrite_undefined {bytes off : Nat} (v : Word) (s : State) (h : bytes ≠ 4 ∨ HostReg.at off = none) :
    hostWrite bytes off v s = .refused .hostAccess := by
  rcases h with h | h <;> simp [hostWrite, h]

/-! ## The host's own use of the line (20_memory.md R53, R54) -/

/-- The host's line request takes its answer from the environment, and brings it back. -/
theorem hostLine_frame (r : LineReq) (s : State) :
    hostLine r s = { s with env := s.env.answer (.line r), returned := (hostLine r s).returned } := by
  cases r <;> rfl

/-- The shadow `LDRV` follows the answer to a drive request, whoever made it. -/
@[simp] theorem Environment.answer_rel_ldrv (v : Environment) :
    (v.answer (.line .rel)).ldrv = v.nextDrive.1.driver .released := rfl

@[simp] theorem Environment.answer_low_ldrv (v : Environment) :
    (v.answer (.line .low)).ldrv = v.nextDrive.1.driver .drivenLow := rfl

@[simp] theorem Environment.answer_rd_ldrv (v : Environment) : (v.answer (.line .rd)).ldrv = v.ldrv :=
  v.nextRead_ldrv

theorem DriveAns.driver_of_ne_ok {a : DriveAns} (h : a ≠ .ok) (d : LineDriver) : a.driver d = .unknown := by
  cases a with
  | ok => exact absurd rfl h
  | err e => rfl

/-! ## What a turn of the host can do -/

/-- The turns of the host that answer a next state, each with that state (20_memory.md R46, R53, 40_host_commands.md R80,
70_reset_and_hazards.md R160). -/
inductive HostStepped (s : State) : HostAct → State → Prop where
  | read (r : HostReg) : HostStepped s (.read 4 r.offset) (s.give (.data r.offset (s.eng.readReg r)))
  | ignored (r : HostReg) (v : Word) : r ≠ .ctrl → HostStepped s (.write 4 r.offset v) s
  | command (v : Word) (e : Engine) : s.eng.Commanded (v.toNat % 4) e →
      HostStepped s (.write 4 0 v) { s with eng := e }
  | reset : HostStepped s .reset s.applyReset
  | line (r : LineReq) : s.eng.bound = false → HostStepped s (.line r) (hostLine r s)
  | delay (d : DelayReq) : s.eng.busy = false → HostStepped s (.delay d) (s.give (.elapsed d))

/-- The inversion lemma of a host step. -/
theorem hostStep_cases {a : HostAct} {s t : State} (h : hostStep a s = .next t) : HostStepped s a t := by
  cases a with
  | read bytes off =>
    simp only [hostStep] at h
    rcases hostAccess_cases bytes off with ⟨r, rfl, rfl⟩ | hundef
    · rw [hostRead_reg] at h
      cases h
      exact .read r
    · rw [hostRead_undefined s hundef] at h
      cases h
  | write bytes off v =>
    simp only [hostStep] at h
    rcases hostAccess_cases bytes off with ⟨r, rfl, rfl⟩ | hundef
    · by_cases hr : r = .ctrl
      · subst hr
        obtain ⟨e, he, hc⟩ := exec_command_cases v s
        rw [HostReg.offset, hostWrite_ctrl, he] at h
        cases h
        exact .command v e hc
      · rw [hostWrite_ignored hr] at h
        cases h
        exact .ignored r v hr
    · rw [hostWrite_undefined v s hundef] at h
      cases h
  | reset =>
    cases h
    exact .reset
  | line r =>
    cases hb : s.eng.bound with
    | false =>
      simp only [hostStep, hb, Bool.false_eq_true, if_false] at h
      cases h
      exact .line r hb
    | true => simp [hostStep, hb] at h
  | delay d =>
    cases hb : s.eng.busy with
    | false =>
      simp only [hostStep, hb, Bool.false_eq_true, if_false] at h
      cases h
      exact .delay d hb
    | true => simp [hostStep, hb] at h

/-- A BUSY engine, which is owned, accepts no command: it keeps every register but `CMDREF` (40_host_commands.md R80, R85). -/
theorem Engine.Commanded.of_busy {e e' : Engine} {code : Nat} (hc : e.Commanded code e') (hbound : e.bound = true)
    (hbusy : e.busy = true) : e' = { e with cmdref := e'.cmdref } := by
  cases hc with
  | nop | refused => rfl
  | construct _ hb => simp [hbound] at hb
  | measure _ _ hb | release _ _ hb => simp [hbusy] at hb

/-! ## The events of a micro-step -/

/-- A micro-step issues its position's request (10_state.md R13, 30_encoding.md R76). -/
theorem Engine.Micro.issuedAt {e e' : Engine} {ev : Event} (hm : e.Micro (some ev) e') : ev.issuedAt e.upc = true := by
  have hpoll (hp : e.polling = true) : (e.upc == .u7 || e.upc == .u8 || e.upc == .u9) = true := by
    simpa [or_assoc] using e.polling_iff.1 hp
  cases hm with
  | rel hu | relErr _ hu => rcases hu with hu | hu <;> simp [Event.issuedAt, hu]
  | low hu | lowErr _ hu | settle hu | start hu | wait hu => simp [Event.issuedAt, hu]
  | hit hp | miss hp | timeout hp | readErr _ hp => exact hpoll hp
  | poll hp => simp [Event.issuedAt, hpoll hp]

/-! ## Bits stored in a row (42_pulse_bit_decoder.md R106) -/

/-- A stored bit goes to its place, and no other bit of the frame changes. -/
theorem storeBit_getLsbD (f : Frame) {i : Nat} (b : Bool) (hi : i < 40) {k : Nat} (hk : k < 5) {j : Nat} (hj : j < 8) :
    ((storeBit f i b)[k]).getLsbD j = if k = i / 8 ∧ j = 7 - i % 8 then b else (f[k]).getLsbD j := by
  have hbyte : i / 8 < 5 := by omega
  simp only [storeBit, hbyte, dite_true, Vector.getElem_set]
  by_cases hki : i / 8 = k
  · subst hki
    simp [setBit_getLsbD f[i / 8] (7 - i % 8) (by omega) b j hj]
  · simp [hki, Ne.symm hki]

/-- The same by iteration numbers: each of the forty has a place of its own. -/
theorem frameBit_storeBit (f : Frame) {i j : Nat} (b : Bool) (hi : i < 40) (hj : j < 40) :
    frameBit (storeBit f i b) j = if j = i then b else frameBit f j := by
  have hbyte : j / 8 < 5 := by omega
  have hplace : (j / 8 = i / 8 ∧ 7 - j % 8 = 7 - i % 8) ↔ j = i := by omega
  simp only [frameBit, hbyte, dite_true, storeBit_getLsbD f b hi hbyte (show 7 - j % 8 < 8 by omega), hplace]

/-- The bits of the iterations from `i` on, stored one after the other. -/
def storeBits (f : Frame) : Nat → List Bool → Frame
  | _, [] => f
  | i, b :: bs => storeBits (storeBit f i b) (i + 1) bs

/-- Storing from iteration `i` on leaves the bits of the iterations before it. -/
theorem frameBit_storeBits_before {bs : List Bool} {f : Frame} {i j : Nat} (hlen : i + bs.length ≤ 40) (hj : j < i) :
    frameBit (storeBits f i bs) j = frameBit f j := by
  induction bs generalizing f i with
  | nil => rfl
  | cons b bs ih =>
    simp only [List.length_cons] at hlen
    rw [storeBits, ih (by omega) (by omega), frameBit_storeBit f b (by omega) (by omega), if_neg (by omega)]

/-- Each bit stored is the one read back, whatever the frame held. -/
theorem frameBit_storeBits {bs : List Bool} {f : Frame} {i k : Nat} (hlen : i + bs.length ≤ 40) (hk : k < bs.length) :
    frameBit (storeBits f i bs) (i + k) = bs[k] := by
  induction bs generalizing f i k with
  | nil => simp at hk
  | cons b bs ih =>
    simp only [List.length_cons] at hlen hk
    cases k with
    | zero =>
      rw [storeBits, frameBit_storeBits_before (by omega) (by omega), frameBit_storeBit f b (by omega) (by omega)]
      simp
    | succ k =>
      rw [storeBits, show i + (k + 1) = i + 1 + k by omega, ih (by omega) (by omega)]
      rfl

/-! ## Bit reads in a row (42_pulse_bit_decoder.md R103 to R105) -/

/-- The bit that a bit read with the counts `p` yields (42_pulse_bit_decoder.md R104). -/
def pulseBit (p : Nat × Nat) : Bool := decide (p.1 < p.2)

theorem decidedBit_ofNat {p : Nat × Nat} (hlow : p.1 ≤ 1000) (hhigh : p.2 ≤ 1000) :
    decidedBit (BitVec.ofNat 10 p.2) (BitVec.ofNat 10 p.1) = pulseBit p := by
  rw [decidedBit_eq, toNat_ofNat10 hlow, toNat_ofNat10 hhigh, pulseBit]

/-- The completion of a bit read does not depend on what the two waits left in their registers: it clears them. -/
theorem Engine.bitDone_of_waits (b : Bool) (e : Engine) (r : BitPart) (w : PollPart) (high low : Count) :
    { e with rbp := r, wps := w, cnt := high, lowcnt := low }.bitDone b = e.bitDone b := by
  cases e with
  | mk _ _ upc => cases upc <;> rfl

/-- A bit read whose samples give the counts `p` is the completion of its bit. -/
theorem readBitDone_samples {p : Nat × Nat} (hlow : p.1 ≤ 1000) (hhigh : p.2 ≤ 1000) {s : State} {v : Environment}
    (h : s.env.takeReads (bitSamples p).length = (bitSamples p, v)) :
    readBitDone s = .ok () { s with
      eng := s.eng.bitDone (pulseBit p), env := v, events := bitTrace p ++ s.events } := by
  have hlen (l : Level) (k : Nat) : (waitSamples l k).length = k + 1 := by simp [waitSamples]
  rw [bitSamples, List.length_append, hlen, hlen] at h
  obtain ⟨u, h1, h2⟩ := Environment.takeReads_append (hlen _ _) h
  simp only [readBitDone, readBit, waitPulse_hit .high p.1 hlow { s with eng := { s.eng with rbp := .lowph } } u h1,
    Flow.andThen_ok]
  rw [waitPulse_hit .low p.2 hhigh _ v h2]
  simp only [Flow.andThen_ok, decidedBit_ofNat hlow hhigh, bitTrace, List.append_assoc]
  rw [← Engine.bitDone_of_waits (pulseBit p) s.eng .highph .sample (BitVec.ofNat 10 p.2) (BitVec.ofNat 10 p.1)]

/-- The completions of bit reads in a row. -/
def Engine.bitsDone (e : Engine) : List Bool → Engine
  | [] => e
  | b :: bs => (e.bitDone b).bitsDone bs

/-- Bit reads in a row whose samples give the counts `ps`. -/
theorem readBits_samples {ps : List (Nat × Nat)} {s : State} {v : Environment}
    (hps : ∀ p ∈ ps, p.1 ≤ 1000 ∧ p.2 ≤ 1000)
    (h : s.env.takeReads (ps.flatMap bitSamples).length = (ps.flatMap bitSamples, v)) :
    readBits ps.length s = .ok () { s with
      eng := s.eng.bitsDone (ps.map pulseBit), env := v, events := bitsTrace ps ++ s.events } := by
  induction ps generalizing s with
  | nil =>
    have hv : s.env = v := congrArg Prod.snd h
    subst hv
    rfl
  | cons p ps ih =>
    obtain ⟨⟨hlow, hhigh⟩, hps⟩ := List.forall_mem_cons.1 hps
    rw [List.flatMap_cons, List.length_append] at h
    obtain ⟨u, h1, h2⟩ := Environment.takeReads_append rfl h
    rw [List.length_cons, readBits, readBitDone_samples hlow hhigh h1, Flow.andThen_ok, ih hps h2, bitsTrace,
      List.append_assoc]
    rfl

/-- The bit reads at U8 that are left up to the 40th fill the rest of the frame and end the loop at U9
(42_pulse_bit_decoder.md R105). -/
theorem Engine.bitsDone_to_last {bs : List Bool} {e : Engine} (hu : e.upc = .u8) (hne : bs ≠ [])
    (hlen : e.bitidx.toNat + bs.length = 40) :
    e.bitsDone bs = { e.endBit with
      frame := storeBits e.frame e.bitidx.toNat bs, bitidx := 40, ph := .trailing, upc := .u9 } := by
  induction bs generalizing e with
  | nil => exact absurd rfl hne
  | cons b bs ih =>
    have hdone : e.bitDone b = e.bitStored b := by simp only [Engine.bitDone, hu]
    simp only [List.length_cons] at hlen
    rw [Engine.bitsDone, hdone]
    cases bs with
    | nil =>
      have hi : e.bitidx.toNat = 39 := by simpa using hlen
      rw [Engine.bitStored_last b hi, hi]
      rfl
    | cons c cs =>
      simp only [List.length_cons] at hlen
      have hnext : (e.bitidx + 1).toNat = e.bitidx.toNat + 1 := by bv_omega
      rw [Engine.bitStored_more b (by omega)]
      refine (ih ?_ (List.cons_ne_nil c cs) ?_).trans ?_
      · exact hu
      · simp only [List.length_cons, hnext]
        omega
      · simp only [hnext]
        rfl

end Sys2Proof.Machine

namespace Sys2Proof.Proofs

open Sys2Proof.Machine

/-- Settles O21: forty bit reads from `BITIDX = 0`, and each stored bit is the one read back. -/
theorem bitLoopFillsTheFrame : Obligations.BitLoopFillsTheFrame := by
  intro s ps v hlen hps hreads
  refine ⟨storeBits s.eng.frame 0 (ps.map pulseBit), fun i hi => ?_, ?_⟩
  · have hbit := frameBit_storeBits (f := s.eng.frame) (i := 0) (bs := ps.map pulseBit) (k := i) (by simp [hlen])
      (by simpa using hi)
    simpa [pulseBit] using hbit
  · have hloop := readBits_samples (s := { s with eng := { s.eng with upc := .u8, bitidx := 0 } }) hps hreads
    rw [hlen, Engine.bitsDone_to_last rfl (by simp [← List.length_eq_zero_iff, hlen]) (by simp [hlen])] at hloop
    simp only [exec, execBitLoop, bitLoop, Config.nBits, hloop, Flow.final_ok]
    rfl

/-- Settles O45: only a micro-step issues an event, and it is its position's. -/
theorem eventsBelongToTheirPositions : Obligations.EventsBelongToTheirPositions := by
  intro s t h hs
  cases step_cases hs with
  | quiet _ _ hev | line _ _ _ _ _ _ hev | late _ _ _ _ _ hev => exact .inl hev
  | command _ _ _ _ _ ht | reset _ _ ht => exact .inl (by rw [ht])
  | issue i ts hts => exact absurd hts h.no_issue
  | micro ev _ hu hm hev =>
    cases ev with
    | none => exact .inl hev
    | some x =>
      exact .inr ⟨x, hev, (h.eng.measuring hu).bound, Engine.busy_of_running h.eng.phase_at hu, hm.issuedAt⟩

/-- Settles O47: reads and ignored writes touch no register, every command is refused, and the line and the delay are not
free, since a BUSY engine is owned. -/
theorem hostCannotDisturbAMeasurement : Obligations.HostCannotDisturbAMeasurement := by
  intro s t a ts h hbusy hreset hts hs
  have hbound := h.eng.busy_bound hbusy
  rw [step_host hts] at hs
  cases hostStep_cases hs with
  | read | ignored => rfl
  | command v e hc =>
    simp only
    rw [← hc.of_busy hbound hbusy]
  | reset => exact absurd rfl hreset
  | line _ hfree => simp [hbound] at hfree
  | delay _ hfree => simp [hbusy] at hfree

/-- Settles O33: the map lists each register at its offset. -/
theorem hostReadHasNoSideEffect : Obligations.HostReadHasNoSideEffect := by
  intro s r off ts hmem hts
  obtain rfl : off = r.offset := by cases r <;> simpa [HostReg.offset] using hmem
  rw [step_host hts, hostStep, hostRead_reg]
  rfl

/-- Settles O34: the five offsets are those of the registers other than `CTRL`. -/
theorem hostWriteElsewhereIsIgnored : Obligations.HostWriteElsewhereIsIgnored := by
  intro s off v ts hmem hts
  have hreg : ∃ r : HostReg, r ≠ .ctrl ∧ off = r.offset := by
    simp only [List.mem_cons, List.not_mem_nil, or_false] at hmem
    rcases hmem with h | h | h | h | h
    · exact ⟨.status, by decide, h⟩
    · exact ⟨.err, by decide, h⟩
    · exact ⟨.lfinfo, by decide, h⟩
    · exact ⟨.hum, by decide, h⟩
    · exact ⟨.temp, by decide, h⟩
  obtain ⟨r, hr, rfl⟩ := hreg
  rw [step_host hts, hostStep, hostWrite_ignored hr]

/-- Settles O35: an access outside the map is undefined for reads and writes alike. -/
theorem undefinedHostAccessIsRefused : Obligations.UndefinedHostAccessIsRefused := by
  intro s bytes off v ts h
  have hundef : bytes ≠ 4 ∨ HostReg.at off = none := h.imp_right HostReg.at_eq_none
  exact ⟨fun hts => (step_host hts).trans (hostRead_undefined _ hundef),
    fun hts => (step_host hts).trans (hostWrite_undefined v _ hundef)⟩

/-- Settles O38: a host line request is answered by the environment alone, whose shadow follows the answer. -/
theorem hostUsesTheCapabilitiesOnlyWhenFree : Obligations.HostUsesTheCapabilitiesOnlyWhenFree := by
  intro s r d ts
  refine ⟨fun hts hb => ⟨hostLine r { s with turns := ts }, ?_, ?_⟩, fun hts hb => ?_, fun hts hb => ?_,
    fun hts hb => ?_⟩
  · simp [step_host hts, hostStep, hb]
  · rw [hostLine_frame]
    refine ⟨rfl, rfl, rfl, rfl, rfl, ?_, ?_, ?_, ?_⟩
    · rintro rfl hok
      simp [hok]
    · rintro rfl hok
      simp [hok]
    · intro hr hfault
      cases r with
      | rel | low => exact DriveAns.driver_of_ne_ok hfault _
      | rd => exact absurd rfl hr
    · rintro rfl
      simp
  · simp [step_host hts, hostStep, hb]
  · simp [step_host hts, hostStep, hb, State.give]
  · simp [step_host hts, hostStep, hb]

end Sys2Proof.Proofs

/-! SUPPORT. The proofs of the statements about the encoding: which code words decode to an operation, said once, against the
encoder and the opcode table; and the step that a placed code word brings about. -/

namespace Sys2Proof

open Sys2Proof.Machine

/-! ## Decoding what the encoder writes (30_encoding.md R65, R71) -/

/-- The decoder reads the number of a word of 4 bits. -/
theorem decode_uop {v : Nat} (h : v < 16) : decode ⟨4, v⟩ = decodeUop v := if_neg (Nat.not_le.2 h)

/-- The decoder reads the number and the level bit of a word of 5 bits. -/
theorem decode_uopLevel {v : Nat} (h : v < 32) : decode ⟨5, v⟩ = decodeUopLevel v := if_neg (Nat.not_le.2 h)

/-- The decoder reads the number and the count of a word of 10 bits. -/
theorem decode_uopDelay {v : Nat} (h : v < 1024) : decode ⟨10, v⟩ = decodeUopDelay v := if_neg (Nat.not_le.2 h)

theorem delayCountFits_iff {n : Nat} : delayCountFits n = true ↔ n < 64 := decide_eq_true_iff

/-- A count that fits stands below the number of its delay, so it can be read back. -/
theorem decode_encode {i : Instr} (h : i.wf = true) : decode (encode i) = .ok i := by
  cases i with
  | delayUs n =>
    have hn : n < 64 := delayCountFits_iff.1 h
    rw [encode, decode_uopDelay (by omega), decodeUopDelay, if_pos (by omega), show (3 * 64 + n) % 64 = n by omega]
  | delayMs n =>
    have hn : n < 64 := delayCountFits_iff.1 h
    rw [encode, decode_uopDelay (by omega), decodeUopDelay, if_neg (by omega), if_pos (by omega),
      show (4 * 64 + n) % 64 = n by omega]
  | waitPulse l => cases l <;> rfl
  | nop | construct | measure | release => rfl
  | setRelease | setLow | readLine | readBit | handshake | bitLoop | trail | crcCheck | extract => rfl

/-! ## Which words decode -/

/-- The words that name an operation: every 32-bit word, by the command in its bits [1:0] (30_encoding.md R65), and the
encoder's own word of a micro-operation (R71). -/
inductive Decodes : CodeWord → Instr → Prop where
  | command (v : Word) : Decodes ⟨32, v.toNat⟩ (commandOf v)
  | uop {c : CodeWord} {i : Instr} : c = encode i → i.wf = true → c.width ≠ 32 → Decodes c i

theorem Decodes.of_decodeUop {v : Nat} {i : Instr} (h : decodeUop v = .ok i) : Decodes ⟨4, v⟩ i := by
  unfold decodeUop at h
  split at h <;> cases h <;> exact .uop rfl rfl (by decide)

theorem Decodes.of_decodeUopLevel {v : Nat} {i : Instr} (h : decodeUopLevel v = .ok i) : Decodes ⟨5, v⟩ i := by
  unfold decodeUopLevel at h
  split at h
  · cases h
    by_cases hl : v % 2 = 1
    · obtain rfl : v = 5 * 2 + 1 := by omega
      exact .uop rfl rfl (by decide)
    · obtain rfl : v = 5 * 2 := by omega
      exact .uop rfl rfl (by decide)
  · cases h

theorem Decodes.of_decodeUopDelay {v : Nat} {i : Instr} (h : decodeUopDelay v = .ok i) : Decodes ⟨10, v⟩ i := by
  have hcount : delayCountFits (v % 64) = true := delayCountFits_iff.2 (by omega)
  unfold decodeUopDelay at h
  split at h
  · cases h
    exact .uop (by rw [encode, CodeWord.mk.injEq]; omega) hcount (by simp)
  · split at h
    · cases h
      exact .uop (by rw [encode, CodeWord.mk.injEq]; omega) hcount (by simp)
    · cases h

/-- The inversion lemma of the decoder. -/
theorem decode_cases {c : CodeWord} {i : Instr} (h : decode c = .ok i) : Decodes c i := by
  obtain ⟨width, bits⟩ := c
  unfold decode at h
  split at h
  · cases h
  next hfits =>
    simp only at h hfits
    split at h
    · exact .of_decodeUop h
    · exact .of_decodeUopLevel h
    · exact .of_decodeUopDelay h
    · cases h
      have hbits : (BitVec.ofNat 32 bits).toNat = bits := by rw [BitVec.toNat_ofNat, Nat.mod_eq_of_lt (by omega)]
      simpa [hbits] using Decodes.command (BitVec.ofNat 32 bits)
    · cases h

theorem commandOf_wf (v : Word) : (commandOf v).wf = true := by
  rcases commandOf_cases v with ⟨-, h⟩ | ⟨-, h⟩ | ⟨-, h⟩ | ⟨-, h⟩ <;> rw [h] <;> rfl

/-- The encoder writes the ignored bits of a command word as 0 (30_encoding.md R72). -/
theorem encode_commandOf (v : Word) : encode (commandOf v) = ⟨32, v.toNat % 4⟩ := by
  rcases commandOf_cases v with ⟨hv, h⟩ | ⟨hv, h⟩ | ⟨hv, h⟩ | ⟨hv, h⟩ <;> rw [h, hv] <;> rfl

theorem Decodes.wf {c : CodeWord} {i : Instr} (h : Decodes c i) : i.wf = true := by
  cases h with
  | command v => exact commandOf_wf v
  | uop _ hwf _ => exact hwf

/-! ## The rows of the opcode table -/

theorem OpcodeRow.matches_iff {r : OpcodeRow} {c : CodeWord} :
    r.matches c = true ↔ c.width = r.width ∧ c.bits &&& r.mask = r.pattern := by
  simp [OpcodeRow.matches]

/-- The four forms of a row: a command, a number alone, a number with a level bit, and a number with a count. -/
theorem opcodeTable_forms : ∀ r ∈ opcodeTable,
    (r.width = 32 ∧ r.mask = 2 ^ 2 - 1) ∨
    (r.width = 4 ∧ r.mask = 15 * 2 ^ 0 ∧ ∃ n ∈ [0, 1, 2, 6, 7, 8, 9, 10, 11], r.pattern = n * 2 ^ 0) ∨
    (r.width = 5 ∧ r.mask = 15 * 2 ^ 1 ∧ r.pattern = 5 * 2 ^ 1) ∨
    (r.width = 10 ∧ r.mask = 15 * 2 ^ 6 ∧ ∃ n ∈ [3, 4], r.pattern = n * 2 ^ 6) := by
  decide

/-- Every operation's own word matches the operation's row and no other. -/
theorem encode_row (i : Instr) : Laws.CodeWord.Statement i := by
  cases i with
  | nop => exact Laws.CodeWord.nop
  | construct => exact Laws.CodeWord.construct
  | measure => exact Laws.CodeWord.measure
  | release => exact Laws.CodeWord.release
  | setRelease => exact Laws.CodeWord.setRelease
  | setLow => exact Laws.CodeWord.setLow
  | readLine => exact Laws.CodeWord.readLine
  | delayUs n => exact Laws.CodeWord.delayUs n
  | delayMs n => exact Laws.CodeWord.delayMs n
  | waitPulse l => exact Laws.CodeWord.waitPulse l
  | readBit => exact Laws.CodeWord.readBit
  | handshake => exact Laws.CodeWord.handshake
  | bitLoop => exact Laws.CodeWord.bitLoop
  | trail => exact Laws.CodeWord.trail
  | crcCheck => exact Laws.CodeWord.crcCheck
  | extract => exact Laws.CodeWord.extract

/-- Only bits [1:0] of a 32-bit word decide which rows it matches (30_encoding.md R65). -/
theorem OpcodeRow.matches_command {r : OpcodeRow} (hr : r ∈ opcodeTable) (v : Nat) :
    r.matches ⟨32, v⟩ = r.matches ⟨32, v % 4⟩ := by
  rcases opcodeTable_forms r hr with ⟨hw, hm⟩ | ⟨hw, -⟩ | ⟨hw, -⟩ | ⟨hw, -⟩
  · have hmask (b : Nat) : b &&& r.mask = b % 4 := hm ▸ Nat.and_two_pow_sub_one_eq_mod b 2
    simp only [OpcodeRow.matches, hmask, Nat.mod_mod]
  all_goals simp [OpcodeRow.matches, hw]

/-- A word that decodes matches the row of its operation and no other. -/
theorem Decodes.rows {c : CodeWord} {i : Instr} (h : Decodes c i) :
    (opcodeTable.filter fun r => r.matches c).map OpcodeRow.mnemonic = [i.mnemonic] := by
  cases h with
  | command v =>
    rw [List.filter_congr fun r hr => OpcodeRow.matches_command hr v.toNat, ← encode_commandOf]
    exact (encode_row _ (commandOf_wf v)).2
  | uop hc hwf _ => exact hc ▸ (encode_row i hwf).2

/-- The same row by row. -/
theorem Decodes.row_iff {c : CodeWord} {i : Instr} (h : Decodes c i) (m : String) :
    (∃ r ∈ opcodeTable, r.matches c = true ∧ r.mnemonic = m) ↔ m = i.mnemonic := by
  rw [← List.mem_singleton, ← h.rows]
  simp only [List.mem_map, List.mem_filter, and_assoc]

/-- The number in the upper four bits of a word that matches a row with `k` operand bits. -/
theorem number_of_masked {v k n : Nat} (hv : v < 2 ^ (k + 4)) (h : v &&& 15 * 2 ^ k = n * 2 ^ k) : v / 2 ^ k = n := by
  have hpos : 0 < 2 ^ k := Nat.two_pow_pos k
  have hnum : v / 2 ^ k < 2 ^ 4 := Nat.div_lt_of_lt_mul (by rwa [← pow_add])
  calc v / 2 ^ k = v / 2 ^ k &&& 15 := by rw [Nat.and_two_pow_sub_one_eq_mod _ 4, Nat.mod_eq_of_lt hnum]
    _ = (v &&& 15 * 2 ^ k) / 2 ^ k := by rw [Nat.and_div_two_pow, Nat.mul_div_cancel _ hpos]
    _ = n := by rw [h, Nat.mul_div_cancel _ hpos]

/-- No word that matches a row is refused. -/
theorem decode_of_matches {r : OpcodeRow} {c : CodeWord} (hr : r ∈ opcodeTable) (hm : r.matches c = true)
    (hc : c.bits < 2 ^ c.width) : ∃ i, decode c = .ok i := by
  obtain ⟨width, v⟩ := c
  obtain ⟨rfl, hbits⟩ := OpcodeRow.matches_iff.1 hm
  simp only at hbits hc
  rcases opcodeTable_forms r hr with ⟨hw, -⟩ | ⟨hw, hmask, n, hn, hp⟩ | ⟨hw, hmask, hp⟩ | ⟨hw, hmask, n, hn, hp⟩ <;>
    rw [hw] at hc ⊢
  · exact ⟨_, decode_word (BitVec.ofNatLT v hc)⟩
  · have hv : v = n := by simpa using number_of_masked (k := 0) hc (by rw [← hmask, hbits, hp])
    rw [decode_uop hc, hv]
    fin_cases hn <;> exact ⟨_, rfl⟩
  · have hv : v / 2 = 5 := number_of_masked (k := 1) hc (by rw [← hmask, hbits, hp])
    exact ⟨_, (decode_uopLevel hc).trans (if_pos hv)⟩
  · have hv : v / 64 = n := number_of_masked (k := 6) hc (by rw [← hmask, hbits, hp])
    rw [decode_uopDelay hc, decodeUopDelay, hv]
    fin_cases hn <;> exact ⟨_, rfl⟩

end Sys2Proof

namespace Sys2Proof.Machine

/-! ## The turn of a placed code word -/

/-- Rounding the width up to whole bytes reads the word in one of the decoder's own widths. -/
theorem decodeTableWord_cases {nbits w : Nat} {i : Instr} (h : decodeTableWord nbits w = some i) :
    ∃ n, decode ⟨n, w⟩ = .ok i := by
  have hdec {n : Nat} (h : decode? ⟨n, w⟩ = some i) : ∃ n, decode ⟨n, w⟩ = .ok i := by
    unfold decode? at h
    split at h <;> cases h
    exact ⟨n, ‹_›⟩
  unfold decodeTableWord at h
  split at h
  · split at h
    next hsome => exact hdec (hsome.trans h)
    · exact hdec h
  · exact hdec h
  · exact hdec h

theorem turnFor_commandOf (v : Word) : turnFor (commandOf v) v.toNat = .host (.write 4 0 v) := by
  have hturn : Turn.host (.write 4 0 (BitVec.ofNat 32 v.toNat)) = .host (.write 4 0 v) := by
    rw [BitVec.ofNat_toNat, BitVec.setWidth_eq]
  rcases commandOf_cases v with ⟨-, h⟩ | ⟨-, h⟩ | ⟨-, h⟩ | ⟨-, h⟩ <;> rw [h] <;> exact hturn

theorem turnFor_uop {i : Instr} (h : (encode i).width ≠ 32) (w : Nat) : turnFor i w = .issue i := by
  cases i with
  | nop | construct | measure | release => exact absurd rfl h
  | setRelease | setLow | readLine | delayUs | delayMs | waitPulse | readBit | handshake | bitLoop | trail | crcCheck
  | extract => rfl

/-- The turn made of a word performs the operation that the word names: a command as the host's write of the word, a
micro-operation by name. -/
theorem step_turnFor {c : CodeWord} {i : Instr} (h : Decodes c i) {s : State} {ts : List Turn}
    (hts : s.turns = turnFor i c.bits :: ts) : step s = exec i { s with turns := ts } := by
  cases h with
  | command v =>
    rw [turnFor_commandOf] at hts
    rw [step_host hts, hostStep, hostWrite_ctrl]
  | uop hc _ hwidth =>
    rw [turnFor_uop (hc ▸ hwidth)] at hts
    simp only [step, takeTurn, hts]

end Sys2Proof.Machine

namespace Sys2Proof.Proofs

open Sys2Proof.Machine

/-- Settles O57: the encoder's word has its operation's number and operand in the places where the decoder reads them. -/
theorem decodeOfEncodeIsTheOperation : Obligations.DecodeOfEncodeIsTheOperation :=
  fun _ => decode_encode

/-- Settles O58: a word that matches a row decodes, and a word that decodes matches its operation's row alone. -/
theorem decoderFollowsTheOpcodeTable : Obligations.DecoderFollowsTheOpcodeTable := by
  intro c hc
  refine ⟨fun i hi => ?_, fun r hr hm => ?_⟩
  · have hd := decode_cases hi
    obtain ⟨r, hr, hm, hmn⟩ := (hd.row_iff _).2 rfl
    exact ⟨hd.wf, r, hr, hmn, hm⟩
  · obtain ⟨i, hi⟩ := decode_of_matches hr hm hc
    exact ⟨i, hi, (((decode_cases hi).row_iff _).1 ⟨r, hr, hm, rfl⟩).symm⟩

/-- Settles O41: the placed word's turn comes first, and it performs what the word decodes to. -/
theorem stepRunsThePlacedWord : Obligations.StepRunsThePlacedWord := by
  intro s nbits w i h
  obtain ⟨n, hdec⟩ := decodeTableWord_cases h
  have hplaced : s.withFetchWord nbits w =
      { s with eng := s.eng.placedFor i, turns := turnFor i w :: s.turns } := by
    simp only [State.withFetchWord, placeWord, h]
  rw [hplaced]
  exact step_turnFor (decode_cases hdec) rfl

/-- Settles O59: the words are those of well-formed operations, but for two: one has ignored bits set, and one has a number
that names nothing. -/
theorem knownWordsDecode : Obligations.KnownWordsDecode :=
  ⟨decode_encode (i := .measure) rfl, decode_word 0xFFFFFFFD#32, decode_encode (i := .delayUs 40) rfl,
    decode_encode (i := .delayMs 20) rfl, decode_encode (i := .waitPulse .high) rfl, decode_encode (i := .crcCheck) rfl,
    rfl⟩

end Sys2Proof.Proofs

/-! SUPPORT. The proofs of the statements about the host commands: what a command does when it is accepted and when it is
refused. -/

namespace Sys2Proof.Machine

/-! ## Accepted and refused commands (40_host_commands.md R80 to R85) -/

theorem Engine.acceptsMeasure_eq_true {e : Engine} (hb : e.bound = true)
    (hp : e.ph = .idle ∨ e.ph = .done ∨ e.ph = .failed) : e.acceptsMeasure = true := by
  simp [Engine.acceptsMeasure, hb, e.busy_eq_false_iff.2 hp]

theorem Engine.acceptsMeasure_eq_false {e : Engine} (h : e.bound = false ∨ e.ph = .handshaking ∨ e.ph = .bitreading ∨
    e.ph = .trailing ∨ e.ph = .checksum) : e.acceptsMeasure = false := by
  rcases h with hb | hp
  · simp [Engine.acceptsMeasure, hb]
  · simp [Engine.acceptsMeasure, e.busy_iff.2 hp]

/-- `MEASURE` and `RELEASE` are accepted in the same states (40_host_commands.md R80). -/
theorem Engine.acceptsRelease_eq (e : Engine) : e.acceptsRelease = e.acceptsMeasure := rfl

theorem exec_construct_accepted {s : State} (h : s.eng.bound = false) :
    exec .construct s = .next { s with eng := s.eng.construct } := by
  simp only [exec, execConstruct, Engine.acceptsConstruct, h, Bool.not_false, if_true]

theorem exec_construct_refused {s : State} (h : s.eng.bound = true) : exec .construct s = .next s.refuse := by
  simp [exec, execConstruct, Engine.acceptsConstruct, h]

theorem exec_measure_accepted {s : State} (h : s.eng.acceptsMeasure = true) :
    exec .measure s = .next { s with eng := s.eng.measure } := by
  simp only [exec, execMeasure, h, if_true]

theorem exec_measure_refused {s : State} (h : s.eng.acceptsMeasure = false) : exec .measure s = .next s.refuse := by
  simp [exec, execMeasure, h]

theorem exec_release_accepted {s : State} (h : s.eng.acceptsRelease = true) :
    exec .release s = .next { s with eng := s.eng.release } := by
  simp only [exec, execRelease, h, if_true]

theorem exec_release_refused {s : State} (h : s.eng.acceptsRelease = false) : exec .release s = .next s.refuse := by
  simp [exec, execRelease, h]

/-- A `CONSTRUCT` after an accepted `CONSTRUCT` and its `RELEASE` finds nothing left to change (40_host_commands.md R88). -/
theorem Engine.construct_release_construct (e : Engine) : e.construct.release.construct = e.construct := rfl

end Sys2Proof.Machine

namespace Sys2Proof.Proofs

open Sys2Proof.Machine

/-- Settles O1: the words whose last two bits are 0 are those of `NOP`. -/
theorem nopChangesNothing : Obligations.NopChangesNothing := by
  refine ⟨fun _ => rfl, fun v hv => ?_⟩
  rcases commandOf_cases v with ⟨_, h⟩ | ⟨hc, _⟩ | ⟨hc, _⟩ | ⟨hc, _⟩
  · exact h
  all_goals omega

/-- Settles O2: `BOUND` alone decides. -/
theorem constructTakesOwnership : Obligations.ConstructTakesOwnership :=
  fun _ => ⟨fun hb => exec_construct_accepted hb, fun hb => exec_construct_refused hb⟩

/-- Settles O3: an accepted `MEASURE` writes every register but `BOUND`, which is 1. -/
theorem measureStartsTheSequencer : Obligations.MeasureStartsTheSequencer := by
  intro s
  refine ⟨fun hb hp => ?_, fun h => exec_measure_refused (Engine.acceptsMeasure_eq_false h)⟩
  rw [exec_measure_accepted (Engine.acceptsMeasure_eq_true hb hp), ← hb]
  rfl

/-- Settles O4: `RELEASE` writes `BOUND` and `CMDREF` alone. -/
theorem releaseKeepsTheResult : Obligations.ReleaseKeepsTheResult :=
  fun s => ⟨fun hb hp => exec_release_accepted (s.eng.acceptsRelease_eq.trans (Engine.acceptsMeasure_eq_true hb hp)),
    fun h => exec_release_refused (s.eng.acceptsRelease_eq.trans (Engine.acceptsMeasure_eq_false h))⟩

/-- Settles O5: after `CONSTRUCT` the engine is owned and IDLE, so `RELEASE` is accepted, and then `CONSTRUCT` again. -/
theorem constructReleaseConstructIsConstruct : Obligations.ConstructReleaseConstructIsConstruct := by
  intro s hb
  refine ⟨_, _, _, exec_construct_accepted hb, exec_release_accepted ?_, exec_construct_accepted rfl, ?_, rfl, rfl⟩
  · exact Engine.acceptsMeasure_eq_true rfl (.inl rfl)
  · simp only [Engine.construct_release_construct]

end Sys2Proof.Proofs

/-! SUPPORT. The proofs of the two bounds on a measurement (40_host_commands.md R89): how much of it is still to come at each
position, and how every micro-step lessens that. -/

namespace Sys2Proof.Machine

/-! ## Runs of bounded length -/

/-- The machine comes from `s` to `t` in at most `n` steps. -/
def RunsTo (n : Nat) (s t : State) : Prop := ∃ k ≤ n, core.run k s = .next t

theorem RunsTo.refl (s : State) : RunsTo 0 s s := ⟨0, Nat.le_refl 0, rfl⟩

theorem RunsTo.mono {m n : Nat} {s t : State} (h : RunsTo m s t) (hmn : m ≤ n) : RunsTo n s t := by
  obtain ⟨k, hk, hr⟩ := h
  exact ⟨k, hk.trans hmn, hr⟩

theorem RunsTo.head {n : Nat} {s t u : State} (hs : step s = .next t) (h : RunsTo n t u) : RunsTo (n + 1) s u := by
  obtain ⟨k, hk, hr⟩ := h
  exact ⟨k + 1, by omega, (run_succ k s t hs).trans hr⟩

/-! ## What is still to come of a measurement -/

/-- The requests of the start signal, U1 to U6, that are still to come (10_state.md R13). -/
def Engine.startLeft (e : Engine) : Nat :=
  match e.upc with
  | .u1 => 6
  | .u2 => 5
  | .u3 => 4
  | .u4 => 3
  | .u5 => 2
  | .u6 => 1
  | .u0 | .u7 | .u8 | .u9 | .u10 | .u11 => 0

/-- The pulse-waits still to begin: a measurement has two for the acknowledgment, two for each of the 40 bits, and the
trailing one (41_handshake.md R94, 42_pulse_bit_decoder.md R103, R105, R107). -/
def Engine.waitsAhead (e : Engine) : Nat :=
  match e.upc, e.rbp with
  | .u1, _ | .u2, _ | .u3, _ | .u4, _ | .u5, _ | .u6, _ => 83
  | .u7, .lowph => 82
  | .u7, .highph => 81
  | .u8, .lowph => 2 * (40 - e.bitidx.toNat)
  | .u8, .highph => 2 * (40 - e.bitidx.toNat) - 1
  | .u9, _ | .u10, _ | .u11, _ | .u0, _ => 0

/-- The pulse-waits that run: one at U7, U8 and U9. -/
def Engine.waitsRunning (e : Engine) : Nat := if e.polling then 1 else 0

/-- The most events that the running pulse-wait can still issue: a sample, and a delay and a sample for every miss that `CNT`
has left (42_pulse_bit_decoder.md R102). -/
def Engine.waitLeft (e : Engine) : Nat :=
  if e.polling then
    match e.wps with
    | .sample => 2 * (1000 - e.cnt.toNat) + 1
    | .delay => 2 * (1000 - e.cnt.toNat) + 2
  else 0

/-- The micro-steps without a request that are still to come: U10 and U11 (10_state.md R13). -/
def Engine.silentLeft (e : Engine) : Nat :=
  match e.upc with
  | .u1 | .u2 | .u3 | .u4 | .u5 | .u6 | .u7 | .u8 | .u9 | .u10 => 2
  | .u11 => 1
  | .u0 => 0

/-- The most events still to come: 2001 for each pulse-wait that is still to begin. -/
def Engine.eventsAtMost (e : Engine) : Nat := e.startLeft + 2001 * e.waitsAhead + e.waitLeft

/-- The fewest events still to come of a measurement that succeeds: one for each pulse-wait. -/
def Engine.eventsAtLeast (e : Engine) : Nat := e.startLeft + e.waitsAhead + e.waitsRunning

/-- How a micro-step brings a measurement on. -/
inductive Engine.Advances (e : Engine) : Option Event → Engine → Prop where
  /-- A request of the start signal is answered, or a pulse-wait completed; the next wait, if one begins, begins afresh. -/
  | done (ev : Event) (e' : Engine) : e.startLeft + e.waitsRunning = e'.startLeft + 1 → e.waitsRunning ≤ e.waitLeft →
      e.waitsAhead = e'.waitsAhead + e'.waitsRunning → e'.waitLeft = 2001 * e'.waitsRunning →
      e'.silentLeft = e.silentLeft → Advances e (some ev) e'
  /-- The running pulse-wait goes on. -/
  | waiting (ev : Event) (e' : Engine) : e'.startLeft = e.startLeft → e'.waitsRunning = e.waitsRunning →
      e'.waitsAhead = e.waitsAhead → e.waitLeft = e'.waitLeft + 1 → e'.silentLeft = e.silentLeft →
      Advances e (some ev) e'
  /-- A request ends in an abort. -/
  | aborted (ev : Event) (x : Err) : 1 ≤ e.startLeft + e.waitLeft → Advances e (some ev) (e.fail x)
  /-- The frame is checked, whatever comes of it, or its fields extracted. -/
  | silent (e' : Engine) : e.eventsAtLeast = 0 → e'.eventsAtMost = 0 → e'.silentLeft < e.silentLeft →
      Advances e none e'

/-- At rest nothing is to come. -/
theorem Engine.left_of_rest {e : Engine} (h : e.upc = .u0) :
    e.eventsAtMost = 0 ∧ e.silentLeft = 0 ∧ e.eventsAtLeast = 0 := by
  simp [Engine.eventsAtMost, Engine.eventsAtLeast, Engine.startLeft, Engine.waitsAhead, Engine.waitsRunning,
    Engine.waitLeft, Engine.silentLeft, Engine.polling, h]

theorem Engine.waitLeft_of_sample {e : Engine} (hp : e.polling = true) (hw : e.wps = .sample) :
    e.waitLeft = 2 * (1000 - e.cnt.toNat) + 1 := by
  simp [Engine.waitLeft, hp, hw]

theorem Engine.waitLeft_of_delay {e : Engine} (hp : e.polling = true) (hw : e.wps = .delay) :
    e.waitLeft = 2 * (1000 - e.cnt.toNat) + 2 := by
  simp [Engine.waitLeft, hp, hw]

theorem Engine.startLeft_of_starting {e : Engine} (hu : e.upc.starting = true) : 1 ≤ e.startLeft := by
  cases he : e.upc <;> simp_all [Upc.starting, Engine.startLeft]

/-- While a pulse-wait runs, the start signal is over and the two silent micro-steps are to come. -/
theorem Engine.left_of_polling {e : Engine} (h : e.polling = true) :
    e.startLeft = 0 ∧ e.waitsRunning = 1 ∧ e.silentLeft = 2 ∧ 1 ≤ e.waitLeft := by
  refine ⟨?_, by simp [Engine.waitsRunning, h], ?_, ?_⟩
  · rcases e.polling_iff.1 h with hu | hu | hu <;> simp [Engine.startLeft, hu]
  · rcases e.polling_iff.1 h with hu | hu | hu <;> simp [Engine.silentLeft, hu]
  · cases hw : e.wps <;> simp [Engine.waitLeft, h, hw]

/-- A pulse-wait that begins has at most 2001 events to come (42_pulse_bit_decoder.md R102). -/
theorem Engine.waitLeft_of_fresh {e : Engine} (hc : e.cnt = 0) (hw : e.wps = .sample) :
    e.waitLeft = 2001 * e.waitsRunning := by
  cases hp : e.polling <;> simp [Engine.waitLeft, Engine.waitsRunning, hp, hc, hw]

/-- An answered request of the start signal brings the measurement to the next position. -/
theorem Engine.advances_proceed {e : Engine} (ev : Event) (hu : e.upc.starting = true) : e.Advances (some ev) e.proceed := by
  cases he : e.upc with
  | u1 | u2 | u3 | u4 | u5 | u6 =>
    refine .done ev _ ?_ ?_ ?_ ?_ ?_ <;> simp [Engine.proceed, Engine.startLeft, Engine.waitsAhead,
      Engine.waitsRunning, Engine.waitLeft, Engine.silentLeft, Engine.polling, he]
  | u0 | u7 | u8 | u9 | u10 | u11 => simp [he, Upc.starting] at hu

/-- A completed pulse-wait is one of those that were to come, and the next one, if there is one, runs. -/
theorem Engine.Completed.waitsAhead {e e' : Engine} (hc : e.Completed e') (h : e.Measuring) :
    e.waitsAhead = e'.waitsAhead + e'.waitsRunning := by
  have hidx (hu : e.upc = .u8) : e.bitidx.toNat < 40 := by
    have hph : e.ph = .bitreading := by simpa [Upc.hasPhase] using h.phase_of hu
    simpa [hph, Phase.hasBitIndex] using h.bitidx_at
  cases hc with
  | low hu hr =>
    rcases hu with hu | hu
    · simp [Engine.waitsAhead, Engine.waitsRunning, Engine.polling, hu, hr]
    · have := hidx hu
      simp only [Engine.waitsAhead, Engine.waitsRunning, Engine.polling, Engine.lowDone_upc, Engine.lowDone_rbp,
        Engine.lowDone_bitidx, hu, hr, if_true]
      omega
  | ack hu hr => simp [Engine.waitsAhead, Engine.waitsRunning, Engine.polling, hu, hr]
  | more b hu hr hi =>
    have := hidx hu
    have hadd : (e.bitidx + 1).toNat = e.bitidx.toNat + 1 := by bv_omega
    simp only [Engine.waitsAhead, Engine.waitsRunning, Engine.polling, Engine.endBit_upc, Engine.endBit_rbp, hu, hr, hadd,
      if_true]
    omega
  | last b hu hr hi => simp [Engine.waitsAhead, Engine.waitsRunning, Engine.polling, hu, hr, hi]
  | trail hu => simp [Engine.waitsAhead, Engine.waitsRunning, Engine.polling, hu]

/-- A completed pulse-wait leaves the next one to begin afresh. -/
theorem Engine.Completed.fresh {e e' : Engine} (hc : e.Completed e') (hw : e.wps = .sample) :
    e'.cnt = 0 ∧ e'.wps = .sample := by
  cases hc <;> simp [hw]

/-- A completed pulse-wait leads to the next one, or to the check of the frame. -/
theorem Engine.Completed.left {e e' : Engine} (hc : e.Completed e') : e'.startLeft = 0 ∧ e'.silentLeft = 2 := by
  cases hc with
  | low hu => rcases hu with hu | hu <;> simp [Engine.startLeft, Engine.silentLeft, hu]
  | ack hu | more _ hu | last _ hu | trail hu => simp [Engine.startLeft, Engine.silentLeft, hu]

/-- Every micro-step brings a measurement on. -/
theorem Engine.Micro.advances {e e' : Engine} {ev : Option Event} (hm : e.Micro ev e') (h : e.Measuring) :
    e.Advances ev e' := by
  cases hm with
  | rel hu => exact Engine.advances_proceed _ (by rcases hu with hu | hu <;> simp [hu, Upc.starting])
  | low hu | settle hu | start hu | wait hu => exact Engine.advances_proceed _ (by simp [hu, Upc.starting])
  | relErr x hu =>
    have hstart : 1 ≤ e.startLeft := Engine.startLeft_of_starting (by rcases hu with hu | hu <;> simp [hu, Upc.starting])
    exact .aborted _ _ (by omega)
  | lowErr x hu =>
    have hstart : 1 ≤ e.startLeft := Engine.startLeft_of_starting (by simp [hu, Upc.starting])
    exact .aborted _ _ (by omega)
  | timeout hp | readErr _ hp =>
    obtain ⟨-, -, -, hleft⟩ := Engine.left_of_polling hp
    exact .aborted _ _ (by omega)
  | poll hp hw =>
    have hleft : { e with wps := .sample }.waitLeft = 2 * (1000 - e.cnt.toNat) + 1 := Engine.waitLeft_of_sample hp rfl
    exact .waiting _ _ rfl rfl rfl (by rw [Engine.waitLeft_of_delay hp hw, hleft]) rfl
  | miss hp hw hc =>
    have hadd : (e.cnt + 1).toNat = e.cnt.toNat + 1 := by bv_omega
    have hleft : e.countMiss.waitLeft = 2 * (1000 - (e.cnt + 1).toNat) + 2 := Engine.waitLeft_of_delay hp rfl
    exact .waiting _ _ rfl rfl rfl (by rw [Engine.waitLeft_of_sample hp hw, hleft]; omega) rfl
  | hit hp hw =>
    have hc := Engine.waitDone_cases hp
    obtain ⟨hcnt, hwps⟩ := hc.fresh hw
    obtain ⟨hstart, hrunning, hsilent, hleft⟩ := Engine.left_of_polling hp
    obtain ⟨hstart', hsilent'⟩ := hc.left
    exact .done _ _ (by omega) (by omega) (hc.waitsAhead h) (Engine.waitLeft_of_fresh hcnt hwps) (by omega)
  | crcOk hu | crcBad hu | extract hu =>
    refine .silent _ ?_ ?_ ?_ <;> simp [Engine.eventsAtLeast, Engine.eventsAtMost, Engine.startLeft, Engine.waitsAhead,
      Engine.waitsRunning, Engine.waitLeft, Engine.silentLeft, Engine.polling, hu]

/-- The events that a micro-step issues and those that can still come are no more than could come before it, and the
micro-steps still to come are fewer. -/
theorem Engine.Advances.atMost {e e' : Engine} {ev : Option Event} (h : e.Advances ev e') :
    ev.toList.length + e'.eventsAtMost ≤ e.eventsAtMost ∧
    e'.eventsAtMost + e'.silentLeft < e.eventsAtMost + e.silentLeft := by
  cases h with
  | done ev _ hstart hrunning hahead hleft hsilent | waiting ev _ hstart hrunning hahead hleft hsilent =>
    simp only [Engine.eventsAtMost, Option.toList_some, List.length_singleton]
    omega
  | aborted ev x hleft =>
    obtain ⟨hmost, hsilent, -⟩ := Engine.left_of_rest (e.fail_upc x)
    have hpos : 1 ≤ e.eventsAtMost := by unfold Engine.eventsAtMost; omega
    simp only [hmost, hsilent, Option.toList_some, List.length_singleton]
    omega
  | silent _ _ hmost hsilent =>
    simp only [hmost, Option.toList_none, List.length_nil]
    omega

/-- Unless it aborts, a micro-step issues every event that it takes off those that must come. -/
theorem Engine.Advances.atLeast {e e' : Engine} {ev : Option Event} (h : e.Advances ev e') (hf : e'.ph ≠ .failed) :
    e.eventsAtLeast ≤ ev.toList.length + e'.eventsAtLeast := by
  cases h with
  | done ev _ hstart hrunning hahead | waiting ev _ hstart hrunning hahead =>
    simp only [Engine.eventsAtLeast, Option.toList_some, List.length_singleton]
    omega
  | aborted ev x => exact absurd (e.fail_ph x) hf
  | silent _ hleast => omega

/-- A measurement that succeeds has 6 requests of the start signal and 83 pulse-waits. -/
theorem Engine.eventsAtLeast_of_start {e : Engine} (hu : e.upc = .u1) : e.eventsAtLeast = 89 := by
  simp [Engine.eventsAtLeast, Engine.startLeft, Engine.waitsAhead, Engine.waitsRunning, Engine.polling, hu]

theorem Engine.startLeft_le (e : Engine) : e.startLeft ≤ 6 := by
  cases hu : e.upc <;> simp [Engine.startLeft, hu]

theorem Engine.silentLeft_le (e : Engine) : e.silentLeft ≤ 2 := by
  cases hu : e.upc <;> simp [Engine.silentLeft, hu]

theorem Engine.waitsAhead_le (e : Engine) : e.waitsAhead ≤ 83 := by
  cases hu : e.upc <;> cases hr : e.rbp <;> simp only [Engine.waitsAhead, hu, hr] <;> omega

theorem Engine.waitsAhead_le_of_polling {e : Engine} (hp : e.polling = true) : e.waitsAhead ≤ 82 := by
  rcases e.polling_iff.1 hp with hu | hu | hu <;> cases hr : e.rbp <;> simp only [Engine.waitsAhead, hu, hr] <;> omega

theorem Engine.waitLeft_le_of_polling {e : Engine} (hp : e.polling = true) : e.waitLeft ≤ 2002 := by
  cases hw : e.wps with
  | sample => rw [Engine.waitLeft_of_sample hp hw]; omega
  | delay => rw [Engine.waitLeft_of_delay hp hw]; omega

/-- At no position can more events come than at U1, where there are 6 and 83 pulse-waits of 2001. -/
theorem Engine.eventsAtMost_le (e : Engine) : e.eventsAtMost ≤ 166089 := by
  unfold Engine.eventsAtMost
  cases hp : e.polling with
  | true =>
    obtain ⟨hstart, -⟩ := Engine.left_of_polling hp
    have hahead := Engine.waitsAhead_le_of_polling hp
    have hleft := Engine.waitLeft_le_of_polling hp
    omega
  | false =>
    have hstart := e.startLeft_le
    have hahead := e.waitsAhead_le
    have hleft : e.waitLeft = 0 := by simp [Engine.waitLeft, hp]
    omega

/-! ## Free runs -/

/-- A measurement does not go back to IDLE (10_state.md R12). -/
theorem Engine.Micro.not_idle {e e' : Engine} {ev : Option Event} (hm : e.Micro ev e') (h : e.Measuring) :
    e'.ph ≠ .idle := by
  intro hi
  have hbusy := e.busy_iff.1 (Engine.busy_of_running h.phase_at h.running)
  have hne : e'.ph ≠ e.ph := by
    intro heq
    simp [← heq, hi] at hbusy
  cases hm.moved h hne with
  | acknowledged _ _ _ _ hp | filled _ _ _ _ _ _ hp | trailed _ _ _ hp => simp [hi] at hp
  | delivered | mismatched | timedOut | faulted => cases hi

/-- A state that is not at rest, with no turn listed, takes a micro-step, which keeps the invariant. -/
theorem State.Inv.free_step {s : State} (h : s.Inv) (hts : s.turns = []) (hu : s.eng.upc ≠ .u0) :
    ∃ (t : State) (ev : Option Event), step s = .next t ∧ t.Inv ∧ t.turns = [] ∧ s.eng.Micro ev t.eng ∧
      t.events = ev.toList ++ s.events := by
  obtain ⟨t, ev, hstep, hm, hev, -, hts', -⟩ := engineStep_cases s hu
  have hs : step s = .next t := (step_free hts).trans hstep
  exact ⟨t, ev, hs, h.of_step hs, hts'.trans hts, hm, hev⟩

/-- A measurement left to run comes to rest within the micro-steps and the events that can still come. -/
theorem State.Inv.comes_to_rest {s : State} (h : s.Inv) (hts : s.turns = []) (hph : s.eng.ph ≠ .idle) :
    ∃ t, RunsTo (s.eng.eventsAtMost + s.eng.silentLeft) s t ∧ t.eng.upc = .u0 ∧
      (t.eng.ph = .done ∨ t.eng.ph = .failed) ∧ t.events.length ≤ s.events.length + s.eng.eventsAtMost := by
  by_cases hu : s.eng.upc = .u0
  · have hbusy := (s.eng.upc_eq_u0_iff h.eng.phase_at).1 hu
    exact ⟨s, (RunsTo.refl s).mono (Nat.zero_le _), hu, (s.eng.busy_eq_false_iff.1 hbusy).resolve_left hph, by omega⟩
  · obtain ⟨u, ev, hs, hInv, huts, hm, hev⟩ := h.free_step hts hu
    have hM := h.eng.measuring hu
    obtain ⟨hmost, hless⟩ := (hm.advances hM).atMost
    obtain ⟨t, hrun, hrest, hend, hlen⟩ := hInv.comes_to_rest huts (hm.not_idle hM)
    refine ⟨t, (RunsTo.head hs hrun).mono (by omega), hrest, hend, ?_⟩
    rw [hev, List.length_append] at hlen
    omega
termination_by s.eng.eventsAtMost + s.eng.silentLeft

/-- A run that ends at DONE has issued the events that had to come. -/
theorem State.Inv.events_of_done {k : Nat} {s t : State} (h : s.Inv) (hts : s.turns = [])
    (hr : core.run k s = .next t) (hd : t.eng.ph = .done) :
    s.events.length + s.eng.eventsAtLeast ≤ t.events.length := by
  induction k generalizing s with
  | zero =>
    cases hr
    have hu := (t.eng.upc_eq_u0_iff h.eng.phase_at).2 (t.eng.busy_eq_false_iff.2 (.inr (.inl hd)))
    obtain ⟨-, -, hleast⟩ := Engine.left_of_rest hu
    omega
  | succ k ih =>
    by_cases hu : s.eng.upc = .u0
    · obtain ⟨-, -, hleast⟩ := Engine.left_of_rest hu
      rw [run_rest (k + 1) s hts hu] at hr
      cases hr
      omega
    · obtain ⟨u, ev, hs, hInv, huts, hm, hev⟩ := h.free_step hts hu
      rw [run_succ k s u hs] at hr
      have hnf : u.eng.ph ≠ .failed := by
        intro hf
        have hrest := (u.eng.upc_eq_u0_iff hInv.eng.phase_at).2 (u.eng.busy_eq_false_iff.2 (.inr (.inr hf)))
        rw [run_rest k u huts hrest] at hr
        cases hr
        simp [hf] at hd
      have hleast := (hm.advances (h.eng.measuring hu)).atLeast hnf
      have hlen := ih hInv huts hr
      rw [hev, List.length_append] at hlen
      omega

end Sys2Proof.Machine

namespace Sys2Proof.Proofs

open Sys2Proof.Machine

/-- Settles O49: every micro-step lessens what can still come, which is never more than at U1. -/
theorem everyMeasurementTerminates : Obligations.EveryMeasurementTerminates := by
  intro s h hbusy hts
  have hph : s.eng.ph ≠ .idle := by
    rcases s.eng.busy_iff.1 hbusy with hp | hp | hp | hp <;> simp [hp]
  obtain ⟨t, ⟨k, hk, hr⟩, hu, hend, hlen⟩ := h.comes_to_rest hts hph
  have hmost := s.eng.eventsAtMost_le
  have hsilent := s.eng.silentLeft_le
  exact ⟨k, t, by omega, hr, hu, hend, by omega⟩

/-- Settles O50: unless it aborts, a micro-step takes off what must come no more than it issues. -/
theorem successTakesAtLeast89Events : Obligations.SuccessTakesAtLeast89Events := by
  intro s t k h hu hts hr hd
  have hlen := h.events_of_done hts hr hd
  rwa [Engine.eventsAtLeast_of_start hu] at hlen

end Sys2Proof.Proofs

/-! SUPPORT. The proof that an accepted `MEASURE` on an answering line delivers the frame (40_host_commands.md R86): the
micro-steps of the start signal, of a pulse-wait, of a bit read and of bit reads in a row, and the check of the frame. -/

namespace Sys2Proof.Machine

theorem RunsTo.trans {m n : Nat} {s t u : State} (hst : RunsTo m s t) (htu : RunsTo n t u) : RunsTo (m + n) s u := by
  obtain ⟨j, hj, hr⟩ := hst
  obtain ⟨k, hk, hr'⟩ := htu
  exact ⟨j + k, by omega, (run_add j k s t hr).trans hr'⟩

theorem RunsTo.of_step {s t : State} (h : step s = .next t) : RunsTo 1 s t := .head h (.refl t)

/-! ## The state that micro-steps reach -/

/-- `s` after micro-steps that left the registers `e` and the environment `v` and issued the events `evs`, newest first. -/
def State.reached (s : State) (e : Engine) (v : Environment) (evs : List Event) : State :=
  { s with eng := e, env := v, events := evs ++ s.events }

@[simp] theorem State.reached_eng (s : State) (e : Engine) (v : Environment) (evs : List Event) :
    (s.reached e v evs).eng = e := rfl
@[simp] theorem State.reached_env (s : State) (e : Engine) (v : Environment) (evs : List Event) :
    (s.reached e v evs).env = v := rfl
@[simp] theorem State.reached_turns (s : State) (e : Engine) (v : Environment) (evs : List Event) :
    (s.reached e v evs).turns = s.turns := rfl
@[simp] theorem State.reached_held (s : State) (e : Engine) (v : Environment) (evs : List Event) :
    (s.reached e v evs).held = s.held := rfl

@[simp] theorem State.reached_reached (s : State) (e e' : Engine) (v v' : Environment) (evs evs' : List Event) :
    (s.reached e v evs).reached e' v' evs' = s.reached e' v' (evs' ++ evs) := by
  simp [State.reached]

/-! ## The micro-steps of a pulse-wait (42_pulse_bit_decoder.md R100) -/

theorem State.answered_of_free {s : State} (h : s.held = none) : s.answered = s := by
  cases s
  cases h
  rfl

theorem step_sample_free {s : State} (hts : s.turns = []) (hheld : s.held = none) (hp : s.eng.polling = true)
    (hw : s.eng.wps = .sample) : step s = .next (readLine s) := by
  rw [step_sample hts hp hw, State.answered_of_free hheld]

theorem step_delay_free {s : State} (hts : s.turns = []) (hheld : s.held = none) (hp : s.eng.polling = true)
    (hw : s.eng.wps = .delay) : step s = .next (pollDelay s) := by
  rw [step_delay hts hp hw, State.answered_of_free hheld]

/-- From a sample on, the micro-steps of a pulse-wait end where the poll loop does, after the caller's completion action. -/
theorem runsTo_waitLoop (fuel : Nat) {s : State} (hts : s.turns = []) (hheld : s.held = none)
    (hp : s.eng.polling = true) (hw : s.eng.wps = .sample) (hc : s.eng.cnt.toNat + fuel = 1000) :
    RunsTo (2 * fuel + 1) s
      ((waitLoop s.eng.target (fuel + 1) s).andThen fun _ t => .ok () t.waitDone).final := by
  have hstep := step_sample_free hts hheld hp hw
  rcases pollSample_cases s.eng.target s with ⟨-, hs⟩ | ⟨-, hlt, hs⟩ | ⟨-, -, hs⟩ | ⟨e, -, hs⟩ <;>
    (simp only [readLine, hp, hs, if_true] at hstep; rw [waitLoop, hs])
  case inr.inl =>
    obtain ⟨fuel, rfl⟩ : ∃ n, fuel = n + 1 := ⟨fuel - 1, by omega⟩
    have hadd : (s.eng.cnt + 1).toNat = s.eng.cnt.toNat + 1 := by bv_omega
    refine .head hstep (.head (step_delay_free hts hheld hp rfl) ?_)
    exact runsTo_waitLoop fuel (s := pollDelay { (lineRead s).2 with eng := s.eng.countMiss }) hts hheld hp rfl
      (by simp only [pollDelay_eng, Engine.countMiss_cnt, hadd]; omega)
  all_goals exact (RunsTo.of_step hstep).mono (by omega)
termination_by fuel

/-- A pulse-wait is about to begin, and the engine runs freely. -/
structure State.Waiting (s : State) : Prop where
  turns : s.turns = []
  held : s.held = none
  polling : s.eng.polling = true
  wps : s.eng.wps = .sample
  cnt : s.eng.cnt = 0

theorem State.Waiting.waitPulse_eq {s : State} (h : s.Waiting) (l : Level) : waitPulse l s = waitLoop l 1001 s := by
  have heng : { s.eng with cnt := 0, wps := .sample } = s.eng := by rw [← h.cnt, ← h.wps]
  rw [waitPulse, heng]

/-- `WAIT_PULSE` performed whole is the run of its micro-steps. -/
theorem State.Waiting.runsTo {s : State} (h : s.Waiting) :
    RunsTo 2001 s ((waitPulse s.eng.target s).andThen fun _ t => .ok () t.waitDone).final := by
  rw [h.waitPulse_eq]
  exact runsTo_waitLoop 1000 h.turns h.held h.polling h.wps (by rw [h.cnt]; rfl)

/-- A pulse-wait that the target ends after `k` misses. -/
theorem State.Waiting.runsTo_hit {s : State} {k : Nat} {v : Environment} {e : Engine} (h : s.Waiting) (hk : k ≤ 1000)
    (hv : s.env.takeReads (k + 1) = (waitSamples s.eng.target k, v))
    (he : { s.eng with cnt := BitVec.ofNat 10 k }.waitDone = e) :
    RunsTo 2001 s (s.reached e v (waitTrace s.eng.target k)) := by
  have hrun := h.runsTo
  rw [waitPulse_hit _ k hk s v hv, ← h.wps] at hrun
  exact he ▸ hrun

/-! ## The micro-steps of bit reads (42_pulse_bit_decoder.md R103, R105) -/

theorem waitSamples_length (l : Level) (k : Nat) : (waitSamples l k).length = k + 1 := by simp [waitSamples]

/-- The completion of the low-phase wait at U7 and U8. -/
theorem Engine.waitDone_low {e : Engine} (hu : e.upc = .u7 ∨ e.upc = .u8) (hr : e.rbp = .lowph) :
    e.waitDone = e.lowDone := by
  rcases hu with hu | hu <;> simp only [Engine.waitDone, hu, hr]

/-- The completion of the high-phase wait at U7 and U8. -/
theorem Engine.waitDone_high {e : Engine} (hu : e.upc = .u7 ∨ e.upc = .u8) (hr : e.rbp = .highph) :
    e.waitDone = e.bitDone (decidedBit e.cnt e.lowcnt) := by
  rcases hu with hu | hu <;> simp only [Engine.waitDone, hu, hr]

/-- The target of a bit read's first wait. -/
theorem Engine.target_low {e : Engine} (hr : e.rbp = .lowph) : e.target = .high := by simp only [Engine.target, hr]

/-- The two waits of a bit read, completed with the counts `p`, complete the bit read. -/
theorem Engine.waitDone_waitDone {e : Engine} {p : Nat × Nat} (hu : e.upc = .u7 ∨ e.upc = .u8) (hlow : p.1 ≤ 1000)
    (hhigh : p.2 ≤ 1000) :
    { { e with cnt := BitVec.ofNat 10 p.1 }.lowDone with cnt := BitVec.ofNat 10 p.2 }.waitDone =
      e.bitDone (pulseBit p) := by
  rw [← decidedBit_ofNat hlow hhigh,
    ← Engine.bitDone_of_waits _ e .highph .sample (BitVec.ofNat 10 p.2) (BitVec.ofNat 10 p.1)]
  exact Engine.waitDone_high (e := { { e with cnt := BitVec.ofNat 10 p.1 }.lowDone with cnt := BitVec.ofNat 10 p.2 }) hu rfl

/-- A bit read at U7 or U8 whose samples give the counts `p`. -/
theorem State.Waiting.runsTo_bit {s : State} {p : Nat × Nat} {v : Environment} (h : s.Waiting)
    (hu : s.eng.upc = .u7 ∨ s.eng.upc = .u8) (hr : s.eng.rbp = .lowph) (hlow : p.1 ≤ 1000) (hhigh : p.2 ≤ 1000)
    (hv : s.env.takeReads (bitSamples p).length = (bitSamples p, v)) :
    RunsTo 4002 s (s.reached (s.eng.bitDone (pulseBit p)) v (bitTrace p)) := by
  rw [bitSamples, List.length_append, waitSamples_length, waitSamples_length] at hv
  obtain ⟨u, hv1, hv2⟩ := Environment.takeReads_append (waitSamples_length _ _) hv
  have htarget := Engine.target_low hr
  have hfirst := h.runsTo_hit hlow (htarget ▸ hv1) (Engine.waitDone_low hu hr)
  rw [htarget] at hfirst
  have hwaiting : State.Waiting (s.reached { s.eng with cnt := BitVec.ofNat 10 p.1 }.lowDone u (waitTrace .high p.1)) :=
    ⟨h.turns, h.held, h.polling, rfl, rfl⟩
  have hsecond := hwaiting.runsTo_hit hhigh hv2 (Engine.waitDone_waitDone hu hlow hhigh)
  rw [State.reached_reached] at hsecond
  exact hfirst.trans hsecond

/-- Bit reads in a row at U8, no more than are left up to the 40th. -/
theorem State.Waiting.runsTo_bits {s : State} {ps : List (Nat × Nat)} {v : Environment} (h : s.Waiting)
    (hu : s.eng.upc = .u8) (hr : s.eng.rbp = .lowph) (hlen : s.eng.bitidx.toNat + ps.length ≤ 40)
    (hps : ∀ p ∈ ps, p.1 ≤ 1000 ∧ p.2 ≤ 1000)
    (hv : s.env.takeReads (ps.flatMap bitSamples).length = (ps.flatMap bitSamples, v)) :
    RunsTo (4002 * ps.length) s (s.reached (s.eng.bitsDone (ps.map pulseBit)) v (bitsTrace ps)) := by
  induction ps generalizing s with
  | nil =>
    obtain rfl : s.env = v := congrArg Prod.snd hv
    exact .refl s
  | cons p ps ih =>
    obtain ⟨⟨hlow, hhigh⟩, hps⟩ := List.forall_mem_cons.1 hps
    rw [List.flatMap_cons, List.length_append] at hv
    obtain ⟨u, hv1, hv2⟩ := Environment.takeReads_append rfl hv
    have hfirst := h.runsTo_bit (.inr hu) hr hlow hhigh hv1
    cases ps with
    | nil =>
      obtain rfl : u = v := congrArg Prod.snd hv2
      exact hfirst
    | cons q qs =>
      simp only [List.length_cons] at hlen
      have hnext : (s.eng.bitidx + 1).toNat = s.eng.bitidx.toNat + 1 := by bv_omega
      have hdone : s.eng.bitDone (pulseBit p) = { s.eng.endBit with
          frame := storeBit s.eng.frame s.eng.bitidx.toNat (pulseBit p), bitidx := s.eng.bitidx + 1 } := by
        rw [← Engine.bitStored_more _ (by omega)]
        simp only [Engine.bitDone, hu]
      rw [hdone] at hfirst
      rw [List.map_cons, Engine.bitsDone, hdone, bitsTrace, ← State.reached_reached]
      have hrest := hfirst.trans (ih ⟨h.turns, h.held, h.polling, rfl, rfl⟩ hu rfl
        (by simp only [List.length_cons, State.reached_eng, hnext]; omega) hps hv2)
      exact hrest.mono (by simp only [List.length_cons]; omega)

/-! ## The whole measurement -/

/-- A frame is its forty bits (20_memory.md R42). -/
theorem frame_ext {f g : Frame} (h : ∀ i < 40, frameBit f i = frameBit g i) : f = g := by
  refine Vector.ext fun k hk => BitVec.eq_of_getLsbD_eq fun j hj => ?_
  have hbyte : (8 * k + (7 - j)) / 8 = k := by omega
  have hbit : 7 - (8 * k + (7 - j)) % 8 = j := by omega
  have hplace := h (8 * k + (7 - j)) (by omega)
  simpa only [frameBit, hbyte, hbit, hk, dite_true] using hplace

/-- The start signal on a line that answers it: the six micro-steps of U1 to U6 (41_handshake.md R91 to R93). A request that
was outstanding is answered in the first. -/
theorem runsTo_startSignal {s : State} {ds : List DriveAns} (hts : s.turns = []) (hu : s.eng.upc = .u1)
    (hd : s.env.drives = .ok :: .ok :: .ok :: ds) :
    RunsTo 6 s (s.answered.reached { s.eng.beginBit with upc := .u7 } { s.env with drives := ds, ldrv := .released }
      [.dus 40, .rel .ok, .dms 20, .low .ok, .dms 1, .rel .ok]) := by
  obtain ⟨⟨_, _, upc⟩, ⟨drives⟩, _, _, turns⟩ := s
  subst hts hu hd
  exact ⟨6, Nat.le_refl 6, rfl⟩

/-- The micro-step of U10 (43_crc8_validator.md R115). -/
theorem step_crcCheck {s : State} (hts : s.turns = []) (hu : s.eng.upc = .u10) :
    step s = .next { s with eng := s.eng.crcCheck, held := none } :=
  step_micro hts (Engine.microOp_at hu)

/-- The micro-step of U11 (44_field_extractor.md R120). -/
theorem step_extract {s : State} (hts : s.turns = []) (hu : s.eng.upc = .u11) :
    step s = .next { s with eng := s.eng.extract, held := none } :=
  step_micro hts (Engine.microOp_at hu)

/-- With the checksum right, the two last micro-steps deliver the fields. -/
theorem runsTo_done {s : State} (hts : s.turns = []) (hu : s.eng.upc = .u10) (hc : checksumOk s.eng.frame = true) :
    RunsTo 2 s { s with eng := { s.eng with upc := .u11 }.extract, held := none } := by
  have hcrc := step_crcCheck hts hu
  rw [Engine.crcCheck, if_pos hc] at hcrc
  exact .head hcrc (.of_step (step_extract (s := { s with eng := { s.eng with upc := .u11 }, held := none }) hts rfl))

/-- With the checksum wrong, the next micro-step aborts. -/
theorem runsTo_mismatch {s : State} (hts : s.turns = []) (hu : s.eng.upc = .u10) (hc : ¬ checksumOk s.eng.frame = true) :
    RunsTo 1 s { s with eng := s.eng.fail .crcMismatch, held := none } := by
  have hcrc := step_crcCheck hts hu
  rw [Engine.crcCheck, if_neg hc] at hcrc
  exact .of_step hcrc

/-- The environment once the start signal is answered: the line released, with what is still listed. -/
def Environment.released (v : Environment) (ds : List DriveAns) (rs : List ReadAns) : Environment :=
  { v with drives := ds, reads := rs, ldrv := .released }

theorem Environment.released_takeReads (v : Environment) (ds : List DriveAns) (as rs : List ReadAns) :
    (v.released ds (as ++ rs)).takeReads as.length = (as, v.released ds rs) :=
  Environment.takeReads_listed as rs _ rfl

/-- From the acceptance of `MEASURE` to the first bit, on a line that answers the start signal and acknowledges it. -/
theorem runsTo_acknowledged {s : State} {e : Engine} {a : Nat × Nat} {ds : List DriveAns} {rs : List ReadAns}
    (hts : s.turns = []) (he : s.eng = e.measure) (hlow : a.1 ≤ 1000) (hhigh : a.2 ≤ 1000)
    (hd : s.env.drives = .ok :: .ok :: .ok :: ds) (hr : s.env.reads = bitSamples a ++ rs) :
    ∃ evs, RunsTo 4008 s (s.answered.reached e.measure.ackDone (s.env.released ds rs) evs) := by
  have hstart := runsTo_startSignal hts (by rw [he]; rfl) hd
  have henv : { s.env with drives := ds, ldrv := .released } = s.env.released ds (bitSamples a ++ rs) := by
    rw [← hr]
    rfl
  rw [henv, he] at hstart
  have hwaiting : State.Waiting (s.answered.reached { e.measure.beginBit with upc := .u7 }
      (s.env.released ds (bitSamples a ++ rs)) [.dus 40, .rel .ok, .dms 20, .low .ok, .dms 1, .rel .ok]) :=
    ⟨hts, rfl, rfl, rfl, rfl⟩
  have hack := hwaiting.runsTo_bit (.inl rfl) rfl hlow hhigh (s.env.released_takeReads ds _ rs)
  rw [State.reached_reached] at hack
  exact ⟨_, hstart.trans hack⟩

/-- The forty bit reads at U8 whose samples are those of the frame `f`. -/
theorem State.Waiting.runsTo_frame {s : State} {f : Frame} {ps : List (Nat × Nat)} {v : Environment} (h : s.Waiting)
    (hu : s.eng.upc = .u8) (hr : s.eng.rbp = .lowph) (hi : s.eng.bitidx = 0) (hlen : ps.length = 40)
    (hps : ∀ p ∈ ps, p.1 ≤ 1000 ∧ p.2 ≤ 1000)
    (hf : ∀ (i : Nat) (h : i < ps.length), frameBit f i = decide (ps[i].1 < ps[i].2))
    (hv : s.env.takeReads (ps.flatMap bitSamples).length = (ps.flatMap bitSamples, v)) :
    RunsTo (4002 * ps.length) s (s.reached
      { s.eng.endBit with frame := f, bitidx := 40, ph := .trailing, upc := .u9 } v (bitsTrace ps)) := by
  have hframe : storeBits s.eng.frame 0 (ps.map pulseBit) = f := by
    refine frame_ext fun i hlt => ?_
    have hbit := frameBit_storeBits (f := s.eng.frame) (i := 0) (bs := ps.map pulseBit) (k := i) (by simp [hlen])
      (by simpa [hlen] using hlt)
    rw [hf i (by omega)]
    simpa [pulseBit] using hbit
  have hbits := h.runsTo_bits hu hr (by simp [hi, hlen]) hps hv
  rw [Engine.bitsDone_to_last hu (by simp [← List.length_eq_zero_iff, hlen]) (by simp [hi, hlen]), hi] at hbits
  exact hframe ▸ hbits

/-- The trailing pulse-wait at U9. -/
theorem State.Waiting.runsTo_trail {s : State} {n : Nat} {v : Environment} (h : s.Waiting) (hu : s.eng.upc = .u9)
    (hr : s.eng.rbp = .lowph) (hn : n ≤ 1000)
    (hv : s.env.takeReads (waitSamples .high n).length = (waitSamples .high n, v)) :
    RunsTo 2001 s (s.reached s.eng.trailDone v (waitTrace .high n)) := by
  have htarget := Engine.target_low hr
  rw [waitSamples_length] at hv
  have hdone : { s.eng with cnt := BitVec.ofNat 10 n }.waitDone = s.eng.trailDone := by
    simp only [Engine.waitDone, hu]
    rfl
  exact htarget ▸ h.runsTo_hit hn (htarget ▸ hv) hdone

end Sys2Proof.Machine

namespace Sys2Proof.Proofs

open Sys2Proof.Machine

/-- Settles O56: the acknowledgment, the forty bits of `f` and the trailing pulse bring the engine to U10 with the frame `f`,
and the checksum decides. -/
theorem measurementDeliversTheFrame : Obligations.MeasurementDeliversTheFrame := by
  intro s f a ps n ds rs hts hbound hbusy hlow hhigh hn hlen hps hf hd hr
  have haccepts : s.eng.acceptsMeasure = true := Engine.acceptsMeasure_eq_true hbound (s.eng.busy_eq_false_iff.1 hbusy)
  have hm := exec_measure_accepted haccepts
  rw [List.append_assoc, List.append_assoc] at hr
  obtain ⟨evs, hack⟩ := runsTo_acknowledged (s := { s with eng := s.eng.measure }) hts rfl hlow hhigh hd hr
  have hframe := hack.trans (State.Waiting.runsTo_frame ⟨hts, rfl, rfl, rfl, rfl⟩ rfl rfl rfl hlen hps hf
    (s.env.released_takeReads ds _ _))
  have htrail := hframe.trans (State.Waiting.runsTo_trail ⟨hts, rfl, rfl, rfl, rfl⟩ rfl rfl hn
    (s.env.released_takeReads ds _ _))
  by_cases hc : checksumOk f = true
  · obtain ⟨k, -, hrun⟩ := htrail.trans (runsTo_done hts rfl hc)
    exact ⟨_, _, k, hm, hrun, rfl, rfl, rfl, rfl,
      fun _ => ⟨rfl, rfl, humidityTenths_toNat _ _, temperatureTenths_toInt _ _⟩,
      fun hne => absurd ((checksumOk_iff f).1 hc) hne⟩
  · obtain ⟨k, -, hrun⟩ := htrail.trans (runsTo_mismatch hts rfl hc)
    exact ⟨_, _, k, hm, hrun, rfl, rfl, rfl, rfl, fun heq => absurd ((checksumOk_iff f).2 heq) hc,
      fun _ => ⟨rfl, rfl, rfl, rfl⟩⟩

end Sys2Proof.Proofs

/-! SUPPORT. The proofs of the statements about the handshake (41_handshake.md): the rules of `SET_RELEASE` and `SET_LOW` as
procedures, `HANDSHAKE` as one sequence of its requests, and procedures whose micro-steps run to where they end. -/

namespace Sys2Proof.Machine

/-! ## Procedures in sequence -/

theorem Flow.andThen_assoc {α β γ : Type} (f : Flow α) (k : α → State → Flow β) (l : β → State → Flow γ) :
    (f.andThen k).andThen l = f.andThen fun a s => (k a s).andThen l := by
  cases f <;> rfl

/-- Micro-steps that run to where `f` ends, and from its success to where `k` ends, run to where the sequence ends: an abort
of `f` ends it at once. -/
theorem RunsTo.andThen {α β : Type} {m n : Nat} {s : State} {f : Flow α} {k : α → State → Flow β}
    (hf : RunsTo m s f.final) (hk : ∀ a t, f = .ok a t → RunsTo n t (k a t).final) :
    RunsTo (m + n) s (f.andThen k).final := by
  cases f with
  | ok a t => exact hf.trans (hk a t rfl)
  | failed t => exact hf.mono (Nat.le_add_right m n)

/-! ## The drive requests as procedures (45_line_and_delay_primitives.md R130, R131) -/

theorem setRelease_ok {s : State} (h : s.env.rel.1 = .ok) :
    setRelease s = .ok () (s.reached s.eng.proceed s.env.rel.2 [.rel .ok]) := by
  simp only [setRelease, lineRelease, h]
  rfl

theorem setRelease_fault {s : State} {e : ErrImage} (h : s.env.rel.1 = .err e) :
    setRelease s = .failed (s.reached (s.eng.fail (.lineFault e)) s.env.rel.2 [.rel (.err e)]) := by
  simp only [setRelease, lineRelease, h]
  rfl

theorem setLow_ok {s : State} (h : s.env.low.1 = .ok) :
    setLow s = .ok () (s.reached s.eng.proceed s.env.low.2 [.low .ok]) := by
  simp only [setLow, lineLow, h]
  rfl

theorem setLow_fault {s : State} {e : ErrImage} (h : s.env.low.1 = .err e) :
    setLow s = .failed (s.reached (s.eng.fail (.lineFault e)) s.env.low.2 [.low (.err e)]) := by
  simp only [setLow, lineLow, h]
  rfl

/-- A release that succeeds was answered `ok`. -/
theorem eq_of_setRelease_ok {s t : State} {a : Unit} (h : setRelease s = .ok a t) :
    t = s.reached s.eng.proceed s.env.rel.2 [.rel .ok] := by
  cases ha : s.env.rel.1 with
  | ok => rw [setRelease_ok ha] at h; cases h; rfl
  | err e => rw [setRelease_fault ha] at h; cases h

/-- A drive to low that succeeds was answered `ok`. -/
theorem eq_of_setLow_ok {s t : State} {a : Unit} (h : setLow s = .ok a t) :
    t = s.reached s.eng.proceed s.env.low.2 [.low .ok] := by
  cases ha : s.env.low.1 with
  | ok => rw [setLow_ok ha] at h; cases h; rfl
  | err e => rw [setLow_fault ha] at h; cases h

/-- The start signal on a line that answers it, as a procedure: it leaves the engine at U7, about to read a bit. -/
theorem startSignal_ok {s : State} (hrel : s.env.rel.1 = .ok) (hlow : s.env.rel.2.low.1 = .ok)
    (hrelease : s.env.rel.2.low.2.rel.1 = .ok) :
    startSignal s = .ok () (s.reached { s.eng.beginBit with upc := .u7 } s.env.rel.2.low.2.rel.2
      [.dus 40, .rel .ok, .dms 20, .low .ok, .dms 1, .rel .ok]) := by
  simp only [startSignal, setRelease_ok, setLow_ok, hrel, hlow, hrelease, delayMs_env, State.reached_env, Flow.andThen_ok]
  rfl

/-- `HANDSHAKE` as one sequence (41_handshake.md R90): each drive request is followed by its delay, the last delay by the
bit read. -/
theorem handshake_eq (s : State) : handshake s =
    (setRelease { s with eng := { s.eng with upc := .u1 } }).andThen fun _ t1 =>
      (setLow (delayMs 1 t1)).andThen fun _ t3 =>
        (setRelease (delayMs 20 t3)).andThen fun _ t5 => readBitDone (delayUs 40 t5) := by
  simp only [handshake, startSignal, Flow.andThen_assoc, Flow.andThen_ok]

/-! ## The micro-steps of the start signal (41_handshake.md R91 to R93) -/

/-- The engine runs freely at the position `u`, with no request outstanding. -/
structure State.FreeAt (s : State) (u : Upc) : Prop where
  turns : s.turns = []
  held : s.held = none
  upc : s.eng.upc = u

/-- Where a primitive continues, at a known position. -/
theorem Engine.proceed_upc_at {e : Engine} {u : Upc} (hu : e.upc = u) :
    e.proceed.upc = { e with upc := u }.proceed.upc := by
  rw [← hu]

theorem State.FreeAt.step {s : State} {u : Upc} {i : Instr} (h : s.FreeAt u)
    (hi : { s.eng with upc := u }.microOp = some i) : step s = exec i s := by
  rw [step_micro h.turns ((Engine.microOp_at h.upc).trans hi), State.answered_of_free h.held]

theorem State.FreeAt.setRelease {s t : State} {u : Upc} {a : Unit} (h : s.FreeAt u) (ht : setRelease s = .ok a t) :
    t.FreeAt { s.eng with upc := u }.proceed.upc := by
  rw [eq_of_setRelease_ok ht]
  exact ⟨h.turns, h.held, Engine.proceed_upc_at h.upc⟩

theorem State.FreeAt.setLow {s t : State} {u : Upc} {a : Unit} (h : s.FreeAt u) (ht : setLow s = .ok a t) :
    t.FreeAt { s.eng with upc := u }.proceed.upc := by
  rw [eq_of_setLow_ok ht]
  exact ⟨h.turns, h.held, Engine.proceed_upc_at h.upc⟩

theorem State.FreeAt.delayMs {s : State} {u : Upc} (h : s.FreeAt u) (n : Nat) :
    (delayMs n s).FreeAt { s.eng with upc := u }.proceed.upc :=
  ⟨h.turns, h.held, Engine.proceed_upc_at h.upc⟩

/-- The delay at U6 begins the bit read of U7 (41_handshake.md R93). -/
theorem delayUs_u6 {s : State} (hu : s.eng.upc = .u6) (n : Nat) :
    delayUs n s = s.reached { s.eng.beginBit with upc := .u7 } s.env [.dus n] := by
  simp only [delayUs, Engine.afterUs, Engine.polling, Engine.proceed, hu, Bool.false_eq_true, if_false]
  rfl

theorem State.FreeAt.waiting_u7 {s : State} (h : s.FreeAt .u6) (n : Nat) :
    (delayUs n s).Waiting ∧ (delayUs n s).eng.upc = .u7 ∧ (delayUs n s).eng.rbp = .lowph := by
  rw [delayUs_u6 h.upc]
  exact ⟨⟨h.turns, h.held, rfl, rfl, rfl⟩, rfl, rfl⟩

/-! ## A bit read is its two pulse-waits (42_pulse_bit_decoder.md R103) -/

/-- What a first wait that succeeds leaves, after its completion action. -/
theorem waitDone_of_low_wait {s t : State} {low : Count} (h : waitPulse .high s = .ok low t)
    (hu : s.eng.upc = .u7 ∨ s.eng.upc = .u8) (hr : s.eng.rbp = .lowph) :
    t.waitDone = { t with eng := { s.eng with lowcnt := low, cnt := 0, rbp := .highph, wps := .sample } } := by
  obtain ⟨hcnt, -, -, -, heng⟩ := waitPulse_ok h
  have hdone : t.eng.waitDone = t.eng.lowDone :=
    Engine.waitDone_low (by rw [heng]; exact hu) (by rw [heng]; exact hr)
  rw [State.waitDone, hdone, hcnt, heng]
  rfl

/-- What a second wait that succeeds leaves, after its completion action: its bit is the one that the two counts decide. -/
theorem waitDone_of_high_wait {s t : State} {high : Count} (h : waitPulse .low s = .ok high t)
    (hu : s.eng.upc = .u7 ∨ s.eng.upc = .u8) (hr : s.eng.rbp = .highph) :
    t.waitDone = { t with eng := t.eng.bitDone (decidedBit high t.eng.lowcnt) } := by
  obtain ⟨hcnt, -, -, -, heng⟩ := waitPulse_ok h
  rw [State.waitDone, hcnt, Engine.waitDone_high (by rw [heng]; exact hu) (by rw [heng]; exact hr)]

/-- At U7 and U8 a bit read is two pulse-waits, each with its completion action. -/
theorem readBitDone_eq {s : State} (hu : s.eng.upc = .u7 ∨ s.eng.upc = .u8) (hr : s.eng.rbp = .lowph) :
    readBitDone s =
      ((waitPulse .high s).andThen fun _ t => .ok () t.waitDone).andThen fun _ t =>
        (waitPulse .low t).andThen fun _ u => .ok () u.waitDone := by
  have hs : { s with eng := { s.eng with rbp := .lowph } } = s := by rw [← hr]
  simp only [readBitDone, readBit, Flow.andThen_assoc, Flow.andThen_ok, hs]
  cases hlow : waitPulse .high s with
  | failed t => rfl
  | ok low t =>
    obtain ⟨-, -, -, -, heng⟩ := waitPulse_ok hlow
    have hfirst := waitDone_of_low_wait hlow hu hr
    have hsecond : waitPulse .low { t with eng := { t.eng with lowcnt := low, rbp := .highph } } =
        waitPulse .low t.waitDone := by
      rw [hfirst, heng]
      rfl
    simp only [Flow.andThen_ok, hsecond]
    cases hhigh : waitPulse .low t.waitDone with
    | failed u => rfl
    | ok high u =>
      rw [Flow.andThen_ok, Flow.andThen_ok,
        waitDone_of_high_wait hhigh (by rw [hfirst]; exact hu) (by rw [hfirst])]

/-- `READ_BIT` performed whole is the run of its micro-steps, whatever the environment answers. -/
theorem State.Waiting.runsTo_readBitDone {s : State} (h : s.Waiting) (hu : s.eng.upc = .u7 ∨ s.eng.upc = .u8)
    (hr : s.eng.rbp = .lowph) : RunsTo 4002 s (readBitDone s).final := by
  have hfirst := h.runsTo
  rw [Engine.target_low hr] at hfirst
  rw [readBitDone_eq hu hr]
  refine hfirst.andThen (n := 2001) fun _ t ht => ?_
  cases hlow : waitPulse .high s with
  | failed u => rw [hlow] at ht; cases ht
  | ok low u =>
    rw [hlow] at ht
    cases ht
    obtain ⟨-, hturns, hheld, -, -⟩ := waitPulse_ok hlow
    rw [waitDone_of_low_wait hlow hu hr]
    exact State.Waiting.runsTo ⟨hturns.trans h.turns, hheld.trans h.held, h.polling, rfl, rfl⟩

/-- `HANDSHAKE` performed whole is the run of its micro-steps; a request that was outstanding is answered in the first. -/
theorem runsTo_handshake {s : State} (hts : s.turns = []) (hu : s.eng.upc = .u1) :
    RunsTo 4008 s (handshake s.answered).final := by
  have hstart : { s.answered with eng := { s.answered.eng with upc := .u1 } } = s.answered := by
    rw [← hu]
    rfl
  rw [handshake_eq, hstart]
  refine (RunsTo.of_step (step_micro hts (Engine.microOp_at hu))).andThen (n := 4007) fun _ t1 ht1 => ?_
  have hat2 : t1.FreeAt .u2 := State.FreeAt.setRelease (s := s.answered) ⟨hts, rfl, hu⟩ ht1
  have hat3 : (delayMs 1 t1).FreeAt .u3 := hat2.delayMs 1
  refine .head (hat2.step rfl) ((RunsTo.of_step (hat3.step rfl)).andThen (n := 4005) fun _ t3 ht3 => ?_)
  have hat4 : t3.FreeAt .u4 := hat3.setLow ht3
  have hat5 : (delayMs 20 t3).FreeAt .u5 := hat4.delayMs 20
  refine .head (hat4.step rfl) ((RunsTo.of_step (hat5.step rfl)).andThen (n := 4003) fun _ t5 ht5 => ?_)
  have hat6 : t5.FreeAt .u6 := hat5.setRelease ht5
  obtain ⟨hwaiting, hu7, hlow⟩ := hat6.waiting_u7 40
  exact .head (hat6.step rfl) (hwaiting.runsTo_readBitDone (.inl hu7) hlow)

end Sys2Proof.Machine

namespace Sys2Proof.Proofs

open Sys2Proof.Machine

/-- Settles O17: the completion of a bit read at U7 does not look at its bit. -/
theorem acknowledgmentIsDiscarded : Obligations.AcknowledgmentIsDiscarded := by
  intro s p v hu hlow hhigh hreads
  have hack : s.eng.bitDone (pulseBit p) = s.eng.ackDone := by simp only [Engine.bitDone, hu]
  simp only [exec, execReadBit, readBitDone_samples hlow hhigh hreads, hack, Flow.final_ok]
  rfl

/-- Settles O24: three drive requests answered `ok`, each followed by its delay, and then the bit read of U7. -/
theorem handshakeSendsTheStartSignal : Obligations.HandshakeSendsTheStartSignal := by
  intro s p v hlow hhigh hrel hdrive hrelease hreads
  simp only [exec, execHandshake, handshake, startSignal_ok hrel hdrive hrelease, Flow.andThen_ok,
    readBitDone_samples hlow hhigh (v := v), hreads, Flow.final_ok, ← List.append_assoc, State.reached]
  rfl

/-- Settles O25: the sequence ends with the first drive request that is not answered `ok`. -/
theorem handshakeFaultEndsItAtOnce : Obligations.HandshakeFaultEndsItAtOnce := by
  intro s e
  simp only [exec, execHandshake, handshake_eq]
  refine ⟨fun hfault => ?_, fun hrel hfault => ?_, fun hrel hdrive hfault => ?_⟩
  · simp only [setRelease_fault (e := e), hfault, Flow.andThen_failed]
    rfl
  · simp only [setRelease_ok, setLow_fault (e := e), hrel, hfault, delayMs_env, State.reached_env, Flow.andThen_ok,
      Flow.andThen_failed]
    rfl
  · simp only [setRelease_ok, setLow_ok, setRelease_fault (e := e), hrel, hdrive, hfault, delayMs_env, State.reached_env,
      Flow.andThen_ok, Flow.andThen_failed]
    rfl

/-- Settles O55: each request of the sequence is one micro-step, and so is each delay; the bit read is its micro-steps. -/
theorem handshakeIsItsMicroSteps : Obligations.HandshakeIsItsMicroSteps := by
  intro s hts hu
  obtain ⟨k, -, hrun⟩ := runsTo_handshake hts hu
  exact ⟨k, hrun⟩

end Sys2Proof.Proofs

/-! SUPPORT. The proofs of the statements about the pulse-width bit decoder (42_pulse_bit_decoder.md): `READ_LINE` as a sample,
the pulse-wait and its callers performed whole, and their micro-steps. -/

namespace Sys2Proof.Machine

/-! ## `READ_LINE` as the sample of a pulse-wait (42_pulse_bit_decoder.md R100) -/

/-- The target of a bit read's second wait. -/
theorem Engine.target_high {e : Engine} (hr : e.rbp = .highph) : e.target = .low := by simp only [Engine.target, hr]

theorem readLine_hit {s : State} {l : Level} {v : Environment} (hp : s.eng.polling = true) (hl : s.eng.target = l)
    (h : s.env.nextRead = (.level l, v)) : readLine s = s.reached s.eng.waitDone v [.rd (.level l)] := by
  simp only [readLine, hp, if_true, hl, pollSample_hit (congrArg Prod.fst h), lineRead, h]
  rfl

theorem readLine_miss {s : State} {l : Level} {v : Environment} (hp : s.eng.polling = true)
    (hl : s.eng.target.other = l) (h : s.env.nextRead = (.level l, v)) (hc : s.eng.cnt.toNat < 1000) :
    readLine s = s.reached s.eng.countMiss v [.rd (.level l)] := by
  subst hl
  simp only [readLine, hp, if_true, pollSample_miss (congrArg Prod.fst h) hc, lineRead, h]
  rfl

theorem readLine_timeout {s : State} {l : Level} {v : Environment} (hp : s.eng.polling = true)
    (hl : s.eng.target.other = l) (h : s.env.nextRead = (.level l, v)) (hc : 1000 ≤ s.eng.cnt.toNat) :
    readLine s = s.reached (s.eng.fail .timeout) v [.rd (.level l)] := by
  subst hl
  simp only [readLine, hp, if_true, pollSample_timeout (congrArg Prod.fst h) hc, lineRead, h]
  rfl

/-! ## The completion actions by position (41_handshake.md R94, 42_pulse_bit_decoder.md R105, R107) -/

theorem Engine.bitDone_u7 {e : Engine} (hu : e.upc = .u7) (b : Bool) : e.bitDone b = e.ackDone := by
  simp only [Engine.bitDone, hu]

theorem Engine.bitDone_u8 {e : Engine} (hu : e.upc = .u8) (b : Bool) : e.bitDone b = e.bitStored b := by
  simp only [Engine.bitDone, hu]

theorem Engine.waitDone_u9 {e : Engine} (hu : e.upc = .u9) : e.waitDone = e.trailDone := by
  simp only [Engine.waitDone, hu]

/-! ## The pulse-wait and its callers as procedures (42_pulse_bit_decoder.md R100, R103, R107) -/

theorem exec_waitPulse_ok {l : Level} {s t : State} {c : Count} (h : waitPulse l s = .ok c t) :
    exec (.waitPulse l) s = .next t.waitDone := by
  simp only [exec, execWaitPulse, h, Flow.andThen_ok, Flow.final_ok]

theorem exec_waitPulse_failed {l : Level} {s t : State} (h : waitPulse l s = .failed t) :
    exec (.waitPulse l) s = .next t := by
  simp only [exec, execWaitPulse, h, Flow.andThen_failed, Flow.final_failed]

/-- A bit read whose first wait aborts aborts with it. -/
theorem readBitDone_failed {s t : State} (h : waitPulse .high { s with eng := { s.eng with rbp := .lowph } } = .failed t) :
    readBitDone s = .failed t := by
  simp only [readBitDone, readBit, h, Flow.andThen_failed]

/-- The trace of every pulse-wait: misses, each with its poll delay, and one last sample that the target, a fault or the limit
makes the last. -/
theorem waitPulse_trace (l : Level) (s : State) : ∃ (k : Nat) (a : ReadAns),
    k ≤ 1000 ∧ (waitPulse l s).final.events = .rd a :: missTrace l k ++ s.events := by
  rcases waitPulse_cases l s with ⟨k, v, hk, h⟩ | ⟨v, h⟩ | ⟨k, e, v, hk, h⟩
  · exact ⟨k, .level l, hk, by rw [waitPulse_hit l k hk s v h]; rfl⟩
  · exact ⟨1000, .level l.other, Nat.le_refl _, by rw [waitPulse_timeout l s v h]; rfl⟩
  · exact ⟨k, .err e, hk, by rw [waitPulse_fault l k hk s e v h]; rfl⟩

/-- A step that issues nothing after a procedure leaves its trace. -/
theorem Flow.andThen_events {α β : Type} {f : Flow α} {k : α → State → Flow β}
    (hk : ∀ a t, (k a t).final.events = t.events) : (f.andThen k).final.events = f.final.events := by
  cases f with
  | ok a t => exact hk a t
  | failed t => rfl

/-- A procedure in sequence that succeeds is two that succeed. -/
theorem Flow.andThen_eq_ok {α β : Type} {f : Flow α} {k : α → State → Flow β} {b : β} {t : State}
    (h : f.andThen k = .ok b t) : ∃ a u, f = .ok a u ∧ k a u = .ok b t := by
  cases f with
  | ok a u => exact ⟨a, u, rfl, h⟩
  | failed u => cases h

/-- What a bit read that succeeds leaves: the completion of its bit, and the turns and the request outstanding as they were. -/
theorem readBitDone_ok {s t : State} {a : Unit} (h : readBitDone s = .ok a t) :
    ∃ b, t.eng = s.eng.bitDone b ∧ t.turns = s.turns ∧ t.held = s.held := by
  obtain ⟨b, w, hbit, hdone⟩ := Flow.andThen_eq_ok h
  obtain ⟨low, u, hlow, hrest⟩ := Flow.andThen_eq_ok hbit
  obtain ⟨high, x, hhigh, hx⟩ := Flow.andThen_eq_ok hrest
  obtain ⟨-, hturns, hheld, -, heng⟩ := waitPulse_ok hlow
  obtain ⟨-, hturns', hheld', -, heng'⟩ := waitPulse_ok hhigh
  have hwaits : x.eng = { s.eng with rbp := .highph, wps := .sample, cnt := x.eng.cnt, lowcnt := low } :=
    heng'.trans (by rw [heng])
  cases hx
  cases hdone
  exact ⟨_, (congrArg (Engine.bitDone _) hwaits).trans (Engine.bitDone_of_waits ..), hturns'.trans hturns,
    hheld'.trans hheld⟩

/-! ## Every procedure of the decoder issues a request -/

/-- The procedure `f`, begun in `s`, issues a request. -/
def Flow.Issues {α : Type} (f : Flow α) (s : State) : Prop := s.events.length < f.final.events.length

theorem Flow.Issues.andThen {α β : Type} {s : State} {f : Flow α} {k : α → State → Flow β} (hf : f.Issues s)
    (hk : ∀ a t, t.events.length ≤ (k a t).final.events.length) : (f.andThen k).Issues s := by
  cases f with
  | ok a t => exact Nat.lt_of_lt_of_le hf (hk a t)
  | failed t => exact hf

theorem waitPulse_issues (l : Level) (s : State) : (waitPulse l s).Issues s := by
  obtain ⟨k, a, -, htrace⟩ := waitPulse_trace l s
  simp only [Flow.Issues, htrace, List.cons_append, List.length_cons, List.length_append]
  omega

theorem readBitDone_issues (s : State) : (readBitDone s).Issues s := by
  simp only [readBitDone, readBit, Flow.andThen_assoc, Flow.andThen_ok]
  exact (waitPulse_issues .high { s with eng := { s.eng with rbp := .lowph } }).andThen fun low t =>
    ((waitPulse_issues .low { t with eng := { t.eng with lowcnt := low, rbp := .highph } }).andThen
      fun _ _ => Nat.le_refl _).le

theorem readBits_events_le (n : Nat) (s : State) : s.events.length ≤ (readBits n s).final.events.length := by
  induction n generalizing s with
  | zero => exact Nat.le_refl _
  | succ n ih => exact ((readBitDone_issues s).andThen fun _ t => ih t).le

theorem bitLoop_issues (s : State) : (bitLoop s).Issues s :=
  (readBitDone_issues { s with eng := { s.eng with upc := .u8, bitidx := 0 } }).andThen fun _ t => readBits_events_le 39 t

theorem trail_issues (s : State) : (trail s).Issues s :=
  (waitPulse_issues .high { s with eng := { s.eng with upc := .u9, rbp := .lowph } }).andThen fun _ _ => Nat.le_refl _

/-! ## Their micro-steps -/

/-- A run that issues a request takes a micro-step, and the first one answers a request that was outstanding. -/
theorem RunsTo.of_answered {α : Type} {n : Nat} {s : State} {f : Flow α} (h : RunsTo n s.answered f.final)
    (hts : s.turns = []) (hp : s.eng.polling = true) (hf : f.Issues s.answered) : RunsTo n s f.final := by
  have hu : s.eng.upc ≠ .u0 := by rcases s.eng.polling_iff.1 hp with hu | hu | hu <;> simp [hu]
  obtain ⟨k, hk, hrun⟩ := h
  cases k with
  | zero =>
    have hend : s.answered = f.final := by injection hrun
    exact absurd hf (by rw [Flow.Issues, ← hend]; exact Nat.lt_irrefl _)
  | succ k => exact ⟨k + 1, hk, (run_answered k hts hu).trans hrun⟩

/-- A bit read at U8 that succeeds, and is not the 40th, leaves the engine about to read the next bit. -/
theorem State.Waiting.of_readBitDone {s t : State} {a : Unit} (h : s.Waiting) (hu : s.eng.upc = .u8)
    (hi : s.eng.bitidx.toNat < 39) (ht : readBitDone s = .ok a t) :
    t.Waiting ∧ t.eng.upc = .u8 ∧ t.eng.rbp = .lowph ∧ t.eng.bitidx.toNat = s.eng.bitidx.toNat + 1 := by
  obtain ⟨b, heng, hturns, hheld⟩ := readBitDone_ok ht
  rw [Engine.bitDone_u8 hu, Engine.bitStored_more b hi.ne] at heng
  refine ⟨⟨hturns.trans h.turns, hheld.trans h.held, ?_, ?_, ?_⟩, ?_, ?_, ?_⟩ <;> rw [heng]
  · exact h.polling
  · rfl
  · rfl
  · exact hu
  · rfl
  · simp only
    bv_omega

/-- Bit reads in a row at U8, no more than are left up to the 40th, are the run of their micro-steps. -/
theorem State.Waiting.runsTo_readBits (n : Nat) {s : State} (h : s.Waiting) (hu : s.eng.upc = .u8)
    (hr : s.eng.rbp = .lowph) (hlen : s.eng.bitidx.toNat + n ≤ 40) : RunsTo (4002 * n) s (readBits n s).final := by
  induction n generalizing s with
  | zero => exact .refl s
  | succ n ih =>
    have hfirst := h.runsTo_readBitDone (.inr hu) hr
    refine RunsTo.mono (hfirst.andThen (n := 4002 * n) fun _ t ht => ?_) (by omega)
    cases n with
    | zero => exact .refl t
    | succ n =>
      obtain ⟨hwaiting, hu', hr', hnext⟩ := h.of_readBitDone hu (by omega) ht
      exact ih hwaiting hu' hr' (by omega)

theorem State.Waiting.runsTo_bitLoop {s : State} (h : s.Waiting) (hu : s.eng.upc = .u8) (hr : s.eng.rbp = .lowph)
    (hi : s.eng.bitidx = 0) : RunsTo (4002 * 40) s (bitLoop s).final := by
  have hs : { s with eng := { s.eng with upc := .u8, bitidx := 0 } } = s := by rw [← hu, ← hi]
  rw [bitLoop, hs]
  exact h.runsTo_readBits 40 hu hr (by simp [hi])

/-- `TRAIL` at U9 is its pulse-wait with the completion action of U9 (42_pulse_bit_decoder.md R107). -/
theorem trail_eq {s : State} (hu : s.eng.upc = .u9) (hr : s.eng.rbp = .lowph) :
    trail s = (waitPulse .high s).andThen fun _ t => .ok () t.waitDone := by
  have hs : { s with eng := { s.eng with upc := .u9, rbp := .lowph } } = s := by rw [← hu, ← hr]
  rw [trail, hs]
  cases hwait : waitPulse .high s with
  | failed t => rfl
  | ok c t =>
    obtain ⟨-, -, -, -, heng⟩ := waitPulse_ok hwait
    have hat : t.eng.upc = .u9 := by rw [heng]; exact hu
    simp only [Flow.andThen_ok, State.waitDone, Engine.waitDone_u9 hat]

end Sys2Proof.Machine

namespace Sys2Proof.Proofs

open Sys2Proof.Machine

/-- Settles O11: a level that is not the target of `RBP` is the other one, and the count decides. -/
theorem sampleMissCountsOrTimesOut : Obligations.SampleMissCountsOrTimesOut := by
  intro s l v hread hu hmiss
  have hp := s.eng.polling_iff.2 hu
  have hl : s.eng.target.other = l := by
    rcases hmiss with ⟨hr, rfl⟩ | ⟨hr, rfl⟩
    · rw [Engine.target_low hr]; rfl
    · rw [Engine.target_high hr]; rfl
  refine ⟨fun hc => ⟨_, congrArg Host.Outcome.next (readLine_miss hp hl hread hc), ?_, rfl⟩, fun hc => ?_⟩
  · simp only [State.reached_eng, Engine.countMiss_cnt]
    bv_omega
  · exact congrArg Host.Outcome.next (readLine_timeout hp hl hread hc.ge)

/-- Settles O12: the sample hits, and the position and `RBP` name the completion action. -/
theorem sampleHitCompletesTheWait : Obligations.SampleHitCompletesTheWait := by
  intro s v
  have hexec : exec .readLine s = .next (readLine s) := rfl
  refine ⟨fun hread hr hu => ?_, fun hread hr hu => ?_, fun hread hr hu => ?_, fun hread hr hu hi => ?_,
    fun hread hr hu hi => ?_⟩
  · rw [hexec, readLine_hit (s.eng.polling_iff.2 (hu.imp_right .inl)) (Engine.target_low hr) hread, Engine.waitDone_low hu hr]
    rfl
  · rw [hexec, readLine_hit (s.eng.polling_iff.2 (.inr (.inr hu))) (Engine.target_low hr) hread, Engine.waitDone_u9 hu]
    rfl
  · rw [hexec, readLine_hit (s.eng.polling_iff.2 (.inl hu)) (Engine.target_high hr) hread,
      Engine.waitDone_high (.inl hu) hr, Engine.bitDone_u7 hu]
    rfl
  · rw [hexec, readLine_hit (s.eng.polling_iff.2 (.inr (.inl hu))) (Engine.target_high hr) hread,
      Engine.waitDone_high (.inr hu) hr, Engine.bitDone_u8 hu, Engine.bitStored_more _ hi.ne, decidedBit_eq]
    rfl
  · rw [hexec, readLine_hit (s.eng.polling_iff.2 (.inr (.inl hu))) (Engine.target_high hr) hread,
      Engine.waitDone_high (.inr hu) hr, Engine.bitDone_u8 hu, Engine.bitStored_last _ hi, decidedBit_eq]
    rfl

/-- Settles O13: the wait yields `k`, which the completion action finds in `CNT`. -/
theorem waitPulseReturnsItsMisses : Obligations.WaitPulseReturnsItsMisses := by
  intro s l k v hk hreads
  exact exec_waitPulse_ok (waitPulse_hit l k hk s v hreads)

/-- Settles O14: the 1001st miss finds the count at the limit. -/
theorem waitPulseTimesOutAtItsLimit : Obligations.WaitPulseTimesOutAtItsLimit := by
  intro s l v hreads
  exact exec_waitPulse_failed (waitPulse_timeout l s v hreads)

/-- Settles O16: a wait's trace is at most 1000 misses, each with its poll delay, and one more sample; the completion action
issues nothing. -/
theorem waitPulseAlwaysEnds : Obligations.WaitPulseAlwaysEnds := by
  intro s l
  obtain ⟨k, a, hk, htrace⟩ := waitPulse_trace l s
  obtain ⟨hreads, hdelays, hkinds⟩ := missTrace_requests l k
  have hread : Event.isRead (.rd a) = true := rfl
  refine ⟨_, .rd a :: missTrace l k, rfl, (Flow.andThen_events fun _ _ => rfl).trans htrace, ?_, ?_, ?_⟩
  · simpa [hread, hreads] using Nat.lt_succ_of_le hk
  · simpa [hread, hdelays] using hk
  · exact List.forall_mem_cons.2 ⟨.inl hread, hkinds⟩

/-- Settles O18: the completion of a bit read at U8 stores the bit that the two counts decide, and the 40th ends the loop. -/
theorem readBitStoresTheComparison : Obligations.ReadBitStoresTheComparison := by
  intro s p v hu hi hlow hhigh hreads
  have hnext : (s.eng.bitidx + 1).toNat = s.eng.bitidx.toNat + 1 := by bv_omega
  have hdone : exec .readBit s = .next (s.reached (s.eng.bitStored (pulseBit p)) v (bitTrace p)) := by
    simp only [exec, execReadBit, readBitDone_samples hlow hhigh hreads, Engine.bitDone_u8 hu, Flow.final_ok]
    rfl
  by_cases hlast : s.eng.bitidx.toNat = 39
  · rw [Engine.bitStored_last _ hlast] at hdone
    refine ⟨_, hdone, by rw [hlast]; rfl, ?_⟩
    simp only [hlast, if_true]
    rfl
  · rw [Engine.bitStored_more _ hlast] at hdone
    refine ⟨_, hdone, hnext, ?_⟩
    simp only [if_neg hlast, ← hu]
    rfl

/-- Settles O19: the first wait aborts, and the sequence ends with it. -/
theorem readBitStopsAtItsFirstTimeout : Obligations.ReadBitStopsAtItsFirstTimeout := by
  intro s v hreads
  have hwait := waitPulse_timeout .high { s with eng := { s.eng with rbp := .lowph } } v hreads
  exact congrArg (fun f => Host.Outcome.next f.final) (readBitDone_failed hwait)

/-- Settles O20: the store replaces one byte of the frame, and one bit of that byte. -/
theorem storedBitChangesOnlyItsPlace : Obligations.StoredBitChangesOnlyItsPlace :=
  fun f _ b hi _ hk _ hj => storeBit_getLsbD f b hi hk hj

/-- Settles O22: the wait for HIGH ends at its target, and the completion action discards its count. -/
theorem trailConsumesTheFinalLowPulse : Obligations.TrailConsumesTheFinalLowPulse := by
  intro s k v hk hreads
  have hwait := waitPulse_hit .high k hk { s with eng := { s.eng with upc := .u9, rbp := .lowph } } v hreads
  simp only [exec, execTrail, trail, hwait, Flow.andThen_ok, Flow.final_ok]
  rfl

/-- Settles O23: the wait for HIGH aborts, and an abort clears the frame. -/
theorem trailTimeoutDiscardsTheFrame : Obligations.TrailTimeoutDiscardsTheFrame := by
  intro s v hreads
  have hwait := waitPulse_timeout .high { s with eng := { s.eng with upc := .u9, rbp := .lowph } } v hreads
  have htrail : exec .trail s = .next (s.reached (s.eng.fail .timeout) v (.rd (.level .low) :: missTrace .high 1000)) := by
    simp only [exec, execTrail, trail, hwait, Flow.andThen_failed, Flow.final_failed]
    rfl
  exact ⟨_, htrail, rfl, rfl, rfl, rfl, rfl, rfl, rfl, rfl, rfl, rfl, rfl, rfl, rfl, rfl, rfl, rfl⟩

/-- Settles O51: the first of the wait's micro-steps answers a request that was outstanding. -/
theorem waitPulseIsItsMicroSteps : Obligations.WaitPulseIsItsMicroSteps := by
  intro s hts hu hw hc
  have hp := s.eng.polling_iff.2 hu
  have hwaiting : s.answered.Waiting := ⟨hts, rfl, hp, hw, hc⟩
  obtain ⟨k, hk, hrun⟩ := hwaiting.runsTo.of_answered hts hp
    ((waitPulse_issues s.eng.target s.answered).andThen fun _ _ => Nat.le_refl _)
  exact ⟨k, hk, hrun⟩

/-- Settles O52: the bit read is its two waits, each its micro-steps. -/
theorem readBitIsItsMicroSteps : Obligations.ReadBitIsItsMicroSteps := by
  intro s hts hu hr hw hc
  have hp := s.eng.polling_iff.2 (hu.imp_right .inl)
  have hwaiting : s.answered.Waiting := ⟨hts, rfl, hp, hw, hc⟩
  obtain ⟨k, hk, hrun⟩ := (hwaiting.runsTo_readBitDone hu hr).of_answered hts hp (readBitDone_issues s.answered)
  exact ⟨k, hk, hrun⟩

/-- Settles O53: the loop is forty bit reads, each its micro-steps, and ends with the first that aborts. -/
theorem bitLoopIsItsMicroSteps : Obligations.BitLoopIsItsMicroSteps := by
  intro s hts hu hr hw hc hi
  have hp := s.eng.polling_iff.2 (.inr (.inl hu))
  have hwaiting : s.answered.Waiting := ⟨hts, rfl, hp, hw, hc⟩
  obtain ⟨k, -, hrun⟩ := (hwaiting.runsTo_bitLoop hu hr hi).of_answered hts hp (bitLoop_issues s.answered)
  exact ⟨k, hrun⟩

/-- Settles O54: the trailing wait is its micro-steps. -/
theorem trailIsItsMicroSteps : Obligations.TrailIsItsMicroSteps := by
  intro s hts hu hr hw hc
  have hp := s.eng.polling_iff.2 (.inr (.inr hu))
  have hwaiting : s.answered.Waiting := ⟨hts, rfl, hp, hw, hc⟩
  have hwait := hwaiting.runsTo
  rw [Engine.target_low (e := s.answered.eng) hr, ← trail_eq (s := s.answered) hu hr] at hwait
  obtain ⟨k, -, hrun⟩ := hwait.of_answered hts hp (trail_issues s.answered)
  exact ⟨k, hrun⟩

end Sys2Proof.Proofs

/-! SUPPORT. The proof of the statement about the validator (43_crc8_validator.md): the registers after the two outcomes of the
checksum test, on exact numbers. -/

namespace Sys2Proof.Machine

/-! ## The validator -/

theorem Engine.crcCheck_right {e : Engine}
    (h : (e.frame[0].toNat + e.frame[1].toNat + e.frame[2].toNat + e.frame[3].toNat) % 256 = e.frame[4].toNat) :
    e.crcCheck = { e with upc := .u11 } :=
  if_pos ((checksumOk_iff e.frame).2 h)

theorem Engine.crcCheck_wrong {e : Engine}
    (h : (e.frame[0].toNat + e.frame[1].toNat + e.frame[2].toNat + e.frame[3].toNat) % 256 ≠ e.frame[4].toNat) :
    e.crcCheck = e.fail .crcMismatch :=
  if_neg (mt (checksumOk_iff e.frame).1 h)

end Sys2Proof.Machine

namespace Sys2Proof.Proofs

open Sys2Proof.Machine

/-- Settles O26: the 8-bit sum that the model compares is the exact sum modulo 256, so the two outcomes of the comparison are
those of the exact numbers. -/
theorem crcCheckComparesTheTruncatedSum : Obligations.CrcCheckComparesTheTruncatedSum := by
  intro s
  have hexec : exec .crcCheck s = .next { s with eng := s.eng.crcCheck } := rfl
  refine ⟨fun hright => ?_, fun hwrong => ?_⟩
  · rw [hexec, Engine.crcCheck_right hright]
  · rw [hexec, Engine.crcCheck_wrong hwrong]

end Sys2Proof.Proofs

/-! SUPPORT. The proofs of the statements about the extractor (44_field_extractor.md): the ranges of the two fields, and the
registers after `EXTRACT`. -/

namespace Sys2Proof.Machine

/-! ## The extractor -/

theorem humidityTenths_toNat_le (b0 b1 : Byte) : (humidityTenths b0 b1).toNat ≤ 2805 := by
  have h0 := b0.isLt
  have h1 := b1.isLt
  rw [humidityTenths_toNat]
  omega

theorem temperatureTenths_toInt_mem_Icc (b2 b3 : Byte) : (temperatureTenths b2 b3).toInt ∈ Set.Icc (-1525) 1525 := by
  have h3 := b3.isLt
  have hmagnitude : b2.toNat % 128 * 10 + b3.toNat ≤ 1525 := by omega
  rw [temperatureTenths_toInt, Set.mem_Icc]
  split <;> omega

end Sys2Proof.Machine

namespace Sys2Proof.Proofs

open Sys2Proof.Machine

/-- Settles O27: the registers after `EXTRACT` are those of `Engine.extract`, whose two fields are exact on numbers. -/
theorem extractDecodesTheFields : Obligations.ExtractDecodesTheFields := by
  intro s
  have hexec : exec .extract s = .next { s with eng := s.eng.extract } := rfl
  have hhum := humidityTenths_toNat s.eng.frame[0] s.eng.frame[1]
  have htemp := temperatureTenths_toInt s.eng.frame[2] s.eng.frame[3]
  exact ⟨_, hexec, hhum, htemp, rfl⟩

/-- Settles O28: neither field wraps in its 16 bits, and a byte is at most 255, the low seven bits of one at most 127. -/
theorem fieldsAreExactAndInRange : Obligations.FieldsAreExactAndInRange := by
  intro b0 b1 b2 b3
  obtain ⟨hlow, hhigh⟩ := temperatureTenths_toInt_mem_Icc b2 b3
  exact ⟨humidityTenths_toNat b0 b1, temperatureTenths_toInt b2 b3, humidityTenths_toNat_le b0 b1, hlow, hhigh⟩

end Sys2Proof.Proofs

/-! SUPPORT. The proofs of the statements about the line and delay primitives (45_line_and_delay_primitives.md): each
primitive performed whole, by the answer of its request. -/

namespace Sys2Proof.Machine

/-! ## The primitives by their answers (45_line_and_delay_primitives.md R130 to R136) -/

/-- Where a primitive continues, with all registers, at a known position. -/
theorem Engine.proceed_at {e : Engine} {u : Upc} (hu : e.upc = u) : e.proceed = { e with upc := u }.proceed := by
  rw [← hu]

theorem exec_setRelease_ok {s : State} {v : Environment} (h : s.env.nextDrive = (.ok, v)) :
    exec .setRelease s = .next (s.reached s.eng.proceed { v with ldrv := .released } [.rel .ok]) := by
  have hrel : s.env.rel = (.ok, { v with ldrv := .released }) := by simp only [Environment.rel, h, DriveAns.driver]
  simp only [exec, execSetRelease, setRelease_ok, hrel, Flow.final_ok]

theorem exec_setRelease_fault {s : State} {e : ErrImage} {v : Environment} (h : s.env.nextDrive = (.err e, v)) :
    exec .setRelease s =
      .next (s.reached (s.eng.fail (.lineFault e)) { v with ldrv := .unknown } [.rel (.err e)]) := by
  have hrel : s.env.rel = (.err e, { v with ldrv := .unknown }) := by simp only [Environment.rel, h, DriveAns.driver]
  simp only [exec, execSetRelease, setRelease_fault (e := e), hrel, Flow.final_failed]

theorem exec_setLow_ok {s : State} {v : Environment} (h : s.env.nextDrive = (.ok, v)) :
    exec .setLow s = .next (s.reached s.eng.proceed { v with ldrv := .drivenLow } [.low .ok]) := by
  have hlow : s.env.low = (.ok, { v with ldrv := .drivenLow }) := by simp only [Environment.low, h, DriveAns.driver]
  simp only [exec, execSetLow, setLow_ok, hlow, Flow.final_ok]

theorem exec_setLow_fault {s : State} {e : ErrImage} {v : Environment} (h : s.env.nextDrive = (.err e, v)) :
    exec .setLow s = .next (s.reached (s.eng.fail (.lineFault e)) { v with ldrv := .unknown } [.low (.err e)]) := by
  have hlow : s.env.low = (.err e, { v with ldrv := .unknown }) := by simp only [Environment.low, h, DriveAns.driver]
  simp only [exec, execSetLow, setLow_fault (e := e), hlow, Flow.final_failed]

/-- A read that faults aborts at every position, inside a pulse-wait or not (45_line_and_delay_primitives.md R136). -/
theorem readLine_fault {s : State} {e : ErrImage} (h : s.env.nextRead.1 = .err e) :
    readLine s = s.reached (s.eng.fail (.lineFault e)) s.env.nextRead.2 [.rd (.err e)] := by
  have hread : lineRead s = (.err e, s.reached s.eng s.env.nextRead.2 [.rd (.err e)]) := by simp only [lineRead, h]; rfl
  cases hp : s.eng.polling with
  | true => simp only [readLine, hp, if_true, pollSample_err h, hread]; rfl
  | false => simp only [readLine, hp, Bool.false_eq_true, if_false, hread]; rfl

/-- The delay between two samples of a pulse-wait (42_pulse_bit_decoder.md R100). -/
theorem delayUs_polling {s : State} (hp : s.eng.polling = true) (n : Nat) :
    delayUs n s = s.reached { s.eng with wps := .sample } s.env [.dus n] := by
  simp only [delayUs, Engine.afterUs, hp, if_true]
  rfl

/-- What `fail(LineFault(e))` leaves: the error as it came (60_exceptions.md R147). -/
theorem Engine.fail_lineFault (g : Engine) (e : ErrImage) :
    (g.fail (.lineFault e)).errcode = .linefault ∧ (g.fail (.lineFault e)).lfinfo = some e ∧
    (g.fail (.lineFault e)).ph = .failed ∧ (g.fail (.lineFault e)).upc = .u0 :=
  ⟨rfl, rfl, rfl, rfl⟩

end Sys2Proof.Machine

namespace Sys2Proof.Proofs

open Sys2Proof.Machine

/-- Settles O6: the answer decides between the abort and the next position, which is U2 after U1 and U6 after U5. -/
theorem setReleaseMovesOnOrAborts : Obligations.SetReleaseMovesOnOrAborts := by
  intro s a v hdrive
  refine ⟨fun hok hu => ?_, fun hok hu => ?_, fun e herr => ?_⟩
  · rw [exec_setRelease_ok (hok ▸ hdrive), Engine.proceed_at hu]
    rfl
  · rw [exec_setRelease_ok (hok ▸ hdrive), Engine.proceed_at hu]
    rfl
  · exact exec_setRelease_fault (herr ▸ hdrive)

/-- Settles O7: the answer decides between the abort and the next position, which is U4 after U3. -/
theorem setLowMovesOnOrAborts : Obligations.SetLowMovesOnOrAborts := by
  intro s a v hdrive
  refine ⟨fun hok hu => ?_, fun e herr => ?_⟩
  · rw [exec_setLow_ok (hok ▸ hdrive), Engine.proceed_at hu]
    rfl
  · exact exec_setLow_fault (herr ▸ hdrive)

/-- Settles O8: each of the three requests aborts through the same `fail(LineFault(e))`, with the `e` of its answer. -/
theorem lineFaultCarriesTheErrorUnchanged : Obligations.LineFaultCarriesTheErrorUnchanged := by
  intro s e
  have habort := s.eng.fail_lineFault e
  exact ⟨fun h => ⟨_, exec_setRelease_fault (Prod.ext h rfl), habort⟩,
    fun h => ⟨_, exec_setLow_fault (Prod.ext h rfl), habort⟩,
    fun h => ⟨_, congrArg Host.Outcome.next (readLine_fault h), habort⟩⟩

/-- Settles O9: U6 is no polling position, so that the delay there begins the bit read; U7, U8 and U9 are. -/
theorem delayUsMovesOn : Obligations.DelayUsMovesOn := fun s n =>
  ⟨fun hu => congrArg Host.Outcome.next (delayUs_u6 hu n),
    fun hu => congrArg Host.Outcome.next (delayUs_polling (s.eng.polling_iff.2 hu) n)⟩

/-- Settles O10: a delay in milliseconds only moves on. -/
theorem delayMsMovesOn : Obligations.DelayMsMovesOn := by
  intro s n
  have hexec : exec (.delayMs n) s = .next (s.reached s.eng.proceed s.env [.dms n]) := rfl
  refine ⟨fun hu => ?_, fun hu => ?_⟩
  · rw [hexec, Engine.proceed_at hu]
    rfl
  · rw [hexec, Engine.proceed_at hu]
    rfl

end Sys2Proof.Proofs

/-! SUPPORT. The proofs of the statements about the errors (60_exceptions.md): the fault that ends a pulse-wait, and the abort,
the shared last micro-step of every error. -/

namespace Sys2Proof.Proofs

open Sys2Proof.Machine

/-- Settles O15: the sample's answer is examined before the count, so that a fault is no timeout even at the limit. -/
theorem waitPulseFaultIsNoTimeout : Obligations.WaitPulseFaultIsNoTimeout := by
  intro s l k e v hk hreads
  exact exec_waitPulse_failed (waitPulse_fault l k hk s e v hreads)

/-- Settles O29: the errors differ in the code and in the image they leave, and in no other register. -/
theorem abortWritesTheErrorAndClearsTheRest : Obligations.AbortWritesTheErrorAndClearsTheRest := by
  intro x s
  cases x with
  | timeout => rfl
  | crcMismatch => rfl
  | lineFault e => rfl

end Sys2Proof.Proofs

/-! SUPPORT. The proofs of the statements about reset (70_reset_and_hazards.md): the late answer to a request that a reset
abandoned goes to the environment alone. -/

namespace Sys2Proof.Machine

/-! ## The late answer of an abandoned request (70_reset_and_hazards.md R161) -/

theorem State.lateAnswer_of_some {s : State} {n : Nat} {r : PortReq} (h : s.abandoned[n]? = some r) :
    s.lateAnswer n = { s with env := s.env.answer r, abandoned := s.abandoned.eraseIdx n } := by
  simp only [State.lateAnswer, h]

theorem State.lateAnswer_of_none {s : State} {n : Nat} (h : s.abandoned[n]? = none) : s.lateAnswer n = s := by
  simp only [State.lateAnswer, h]

theorem step_lateAnswer {s : State} {n : Nat} {ts : List Turn} (hts : s.turns = .lateAnswer n :: ts) :
    step s = .next (State.lateAnswer n { s with turns := ts }) := by
  simp only [step, takeTurn, hts]

/-! ## What the answer to a drive request leaves in the environment (20_memory.md R54) -/

theorem DriveAns.driver_eq_ite (a : DriveAns) (d : LineDriver) : a.driver d = if a = .ok then d else .unknown := by
  split
  case isTrue hok => rw [hok, DriveAns.driver_ok]
  case isFalse hfault => exact DriveAns.driver_of_ne_ok hfault d

theorem Environment.answer_rel (v : Environment) : v.answer (.line .rel) =
    { v.nextDrive.2 with ldrv := if v.nextDrive.1 = .ok then .released else .unknown } := by
  rw [← DriveAns.driver_eq_ite]
  rfl

theorem Environment.answer_low (v : Environment) : v.answer (.line .low) =
    { v.nextDrive.2 with ldrv := if v.nextDrive.1 = .ok then .drivenLow else .unknown } := by
  rw [← DriveAns.driver_eq_ite]
  rfl

end Sys2Proof.Machine

namespace Sys2Proof.Proofs

open Sys2Proof.Machine

/-- Settles O60: the answer goes to the environment alone, as that of any request of its kind does. -/
theorem lateAnswerIsIgnored : Obligations.LateAnswerIsIgnored := by
  intro s n ts hts
  have hanswered {r : PortReq} (hr : s.abandoned[n]? = some r) : step s = .next { s with
      turns := ts, env := s.env.answer r, abandoned := s.abandoned.eraseIdx n } :=
    (step_lateAnswer hts).trans (congrArg Host.Outcome.next (State.lateAnswer_of_some hr))
  refine ⟨fun hnone => ?_, fun hrel => ?_, fun hlow => ?_, hanswered, fun _ => hanswered⟩
  · exact (step_lateAnswer hts).trans (congrArg Host.Outcome.next (State.lateAnswer_of_none hnone))
  · rw [hanswered hrel, Environment.answer_rel]
  · rw [hanswered hlow, Environment.answer_low]

end Sys2Proof.Proofs
